-- ==== Sys2Proof/Word.lean ====
section
/-! DEFINITION. Bytes, 32-bit words and byte sequences (00_scope.md R9, R11, R12). -/

namespace Sys2Proof

/-- A byte, 0x00..0xFF (00_scope.md R9, R11). -/
abbrev Byte := BitVec 8

/-- A `uint32` (00_scope.md R12). -/
abbrev Word := BitVec 32

/-- A finite list of bytes, index 0 first (00_scope.md R11). -/
abbrev ByteSeq := List Byte

end Sys2Proof
end

