-- ==== Sys2Proof/Syntax.lean ====
section
/-! DEFINITION. The commands: one constructor per row of spec/opcode_table.json (30_encoding.md R60 to R65). -/

namespace Sys2Proof

/-- The commands of the block. A reserved row covers several opcodes, so its constructor holds the opcode. -/
inductive Instr where
  /-- `NOP`, opcode 0x00 (40_command.md R82). -/
  | nop
  /-- `ENCODE`, opcode 0x01 (43_frame_codec.md R121). -/
  | encode
  /-- `DECODE`, opcode 0x02 (43_frame_codec.md R128). -/
  | decode
  /-- `CRC32`, opcode 0x03 (41_checksum.md R94). -/
  | crc32
  /-- Reserved opcodes 0x04..0x07 (40_command.md R83). -/
  | reserved04 (op : Byte)
  /-- Reserved opcodes 0x08..0x0F (40_command.md R83). -/
  | reserved08 (op : Byte)
  /-- Reserved opcodes 0x10..0x1F (40_command.md R83). -/
  | reserved10 (op : Byte)
  /-- Reserved opcodes 0x20..0x3F (40_command.md R83). -/
  | reserved20 (op : Byte)
  /-- Reserved opcodes 0x40..0x7F (40_command.md R83). -/
  | reserved40 (op : Byte)
  /-- Reserved opcodes 0x80..0xFF (40_command.md R83). -/
  | reserved80 (op : Byte)
deriving DecidableEq, Repr

end Sys2Proof
end

