-- ==== Sys2Proof/WellFormed.lean ====
section
/-! DEFINITION. When a command is one the table has: a reserved command's opcode lies in its row (30_encoding.md R62, R63). -/

namespace Sys2Proof

/-- A row of the opcode table: a word belongs to it when its bits under `mask` are `pat`. -/
structure OpRow where
  pat  : Byte
  mask : Byte
deriving DecidableEq, Repr

/-- The word `v` belongs to the row. -/
def OpRow.hits (r : OpRow) (v : Byte) : Bool := v &&& r.mask == r.pat

/-- The match and mask that spec/opcode_table.json gives each row. -/
def Instr.row : Instr → OpRow
  | .nop          => { pat := 0x00, mask := 0xFF }
  | .encode       => { pat := 0x01, mask := 0xFF }
  | .decode       => { pat := 0x02, mask := 0xFF }
  | .crc32        => { pat := 0x03, mask := 0xFF }
  | .reserved04 _ => { pat := 0x04, mask := 0xFC }
  | .reserved08 _ => { pat := 0x08, mask := 0xF8 }
  | .reserved10 _ => { pat := 0x10, mask := 0xF0 }
  | .reserved20 _ => { pat := 0x20, mask := 0xE0 }
  | .reserved40 _ => { pat := 0x40, mask := 0xC0 }
  | .reserved80 _ => { pat := 0x80, mask := 0x80 }

/-- A reserved command holds an opcode of its own row; the four others have nothing to check. -/
def Instr.wellFormed : Instr → Bool
  | .nop           => true
  | .encode        => true
  | .decode        => true
  | .crc32         => true
  | .reserved04 op => (Instr.reserved04 op).row.hits op
  | .reserved08 op => (Instr.reserved08 op).row.hits op
  | .reserved10 op => (Instr.reserved10 op).row.hits op
  | .reserved20 op => (Instr.reserved20 op).row.hits op
  | .reserved40 op => (Instr.reserved40 op).row.hits op
  | .reserved80 op => (Instr.reserved80 op).row.hits op

end Sys2Proof
end

