-- ==== Sys2Proof/Decode.lean ====
section
/-! DEFINITION. Command words to commands and back (30_encoding.md R60 to R65; spec/opcode_table.json). -/

namespace Sys2Proof

/-- Why bytes are no command word: a command word is exactly one byte (30_encoding.md R65). -/
inductive DecodeError where
  /-- There is no byte. -/
  | noWord
  /-- There is more than the one byte of a command word. -/
  | notOneByte (len : Nat)
deriving DecidableEq, Repr

/-- What the decoder answers. -/
inductive Decoded where
  | command (i : Instr)
  | rejected (e : DecodeError)
deriving DecidableEq, Repr

/-- The command of an opcode. A decoder selects on all 8 bits (30_encoding.md R62). Every byte has a row:
0x00 to 0x03 are the four commands, and the six reserved rows cover 0x04 to 0xFF (R63). -/
def decodeOp (v : Byte) : Instr :=
  if Instr.nop.row.hits v then .nop
  else if Instr.encode.row.hits v then .encode
  else if Instr.decode.row.hits v then .decode
  else if Instr.crc32.row.hits v then .crc32
  else if (Instr.reserved04 v).row.hits v then .reserved04 v
  else if (Instr.reserved08 v).row.hits v then .reserved08 v
  else if (Instr.reserved10 v).row.hits v then .reserved10 v
  else if (Instr.reserved20 v).row.hits v then .reserved20 v
  else if (Instr.reserved40 v).row.hits v then .reserved40 v
  else .reserved80 v

/-- Decoding is total on any bytes: one byte is a command word, anything else is rejected by name (30_encoding.md R65;
DESIGN CHOICE, safe: log entry 14). -/
def decode : List Byte → Decoded
  | []          => .rejected .noWord
  | [v]         => .command (decodeOp v)
  | _ :: _ :: t => .rejected (.notOneByte (t.length + 2))

/-- The opcode of a command (30_encoding.md R62); a reserved command's is the one it holds (R63). -/
def opcodeOf : Instr → Byte
  | .nop           => 0x00
  | .encode        => 0x01
  | .decode        => 0x02
  | .crc32         => 0x03
  | .reserved04 op => op
  | .reserved08 op => op
  | .reserved10 op => op
  | .reserved20 op => op
  | .reserved40 op => op
  | .reserved80 op => op

/-- The bytes of a command: its one word (30_encoding.md R60, R65). -/
def encode (i : Instr) : List Byte := [opcodeOf i]

/-- The bytes of an `nbits`-bit table word `w`, bits 7:0 first. -/
def tableBytes (nbits w : Nat) : List Byte :=
  (List.range (nbits / 8)).map fun k => BitVec.ofNat 8 (w >>> (8 * k))

/-- The command the decoder reads from a word of the opcode table. -/
def decodeTableWord (nbits w : Nat) : Option Instr :=
  match decode (tableBytes nbits w) with
  | .command i  => some i
  | .rejected _ => none

end Sys2Proof
end

