-- ==== Sys2Proof/Config.lean ====
section
/-! DEFINITION. The parameters an integrator fixes (00_scope.md R9; 92_eei_decisions.md D11, D14). -/

namespace Sys2Proof

/-- The two capacities of one instance, OPEN in the spec (00_scope.md R9). State holds them and no step
changes them, so a statement about every state is a statement about every pair of capacities (log entry 1). -/
structure Params where
  /-- `IN_CAP`: the most bytes the input buffer IN holds. -/
  inCap : Nat
  /-- `OUT_CAP`: the most bytes the output buffer OUT holds. -/
  outCap : Nat
deriving DecidableEq, Repr

/-- DESIGN CHOICE (log entry 1): the pair that 95_test_vectors.md section 2.7 uses, IN_CAP = 1024 and
OUT_CAP = 1100. Only `State.reset` names it. -/
def Params.ofVectors : Params := { inCap := 1024, outCap := 1100 }

/-- `BUS_MAP` (00_scope.md R9; 20_memory.md R46): the bus address of the register of each number 0..4.
OPEN in the spec, so a constant without a body; no rule reads it (log entry 2). -/
opaque Config.busMap : Fin 5 → Nat

end Sys2Proof
end

