-- ==== Sys2Proof/Machine/State.lean ====
section
/-! DEFINITION. What the machine holds (10_state.md R22 to R32), why a step can stop, and the state after reset. -/

namespace Sys2Proof.Machine

/-- The five interface registers (10_state.md R22). -/
inductive Reg where
  | cmd
  | status
  | crcOut
  | inSeq
  | outSeq
deriving DecidableEq, Repr

/-- The two byte-indexed spaces (20_memory.md R40). -/
inductive Space where
  | inSeq
  | outSeq
deriving DecidableEq, Repr

/-- What the host can do, and nothing else (40_command.md R87; 30_encoding.md R68, R69). -/
inductive HostAction where
  /-- `LOAD bs`: IN <- bs. -/
  | load (bs : ByteSeq)
  /-- `POKE i, v`: IN <- IN with [i] := v. -/
  | poke (i : Nat) (v : Byte)
  /-- A write to CMD: issues the command `v` names. -/
  | writeCmd (v : Byte)
  /-- A write to STATUS: ignored. -/
  | writeStatus (v : Byte)
  /-- A write to CRC_OUT: ignored. -/
  | writeCrcOut (v : Word)
  /-- `READ r`: a read of a whole register. -/
  | read (r : Reg)
  /-- A read of the byte at index `i` of IN or OUT (10_state.md R31; DEDUCED, safe: log entry 11). -/
  | readByte (m : Space) (i : Nat)
  /-- `RESET`. -/
  | reset
  /-- `XFER`: LOAD of the bytes of the current OUT (DEDUCED, safe: log entry 10). -/
  | xfer
deriving DecidableEq, Repr

/-- A value the host has read: a whole register, or one byte of a space. -/
inductive ReadValue where
  | cmd (v : Byte)
  | status (v : Byte)
  | crcOut (v : Word)
  | inSeq (bs : ByteSeq)
  | outSeq (bs : ByteSeq)
  | byteAt (m : Space) (i : Nat) (v : Byte)
deriving DecidableEq, Repr

/-- The machine: the block's five registers, its two capacities, and the host's side of the run. The working
state of 10_state.md R27 is local to one command and survives none, so no state between steps holds it (DEDUCED, safe: log entry 8). -/
structure State where
  /-- `CMD`, register 0 (10_state.md R23). -/
  cmd    : Byte
  /-- `STATUS`, register 1 (10_state.md R24); `Flags.lean` reads its fields. -/
  status : Byte
  /-- `CRC_OUT`, register 2 (10_state.md R25). -/
  crcOut : Word
  /-- `IN`, register 3 (10_state.md R26). -/
  inSeq  : ByteSeq
  /-- `OUT`, register 4 (10_state.md R26). -/
  outSeq : ByteSeq
  /-- `IN_CAP` and `OUT_CAP` of this instance (00_scope.md R9). -/
  params : Params
  /-- The host's actions not yet performed, in host order (20_memory.md R48; 70_reset_and_hazards.md R168).
  The model's own field (DESIGN CHOICE: log entry 3). -/
  script : List HostAction
  /-- The values the host has read, oldest first (70_reset_and_hazards.md R168). The model's own field
  (DESIGN CHOICE, safe: log entry 4). -/
  reads  : List ReadValue
deriving DecidableEq, Repr

/-- The block raises no exception, trap or fault on any input and any command (60_exceptions.md R140), so there
is no fault to name (DEDUCED: log entry 12). Safe: no meaning can stop where the spec gives an effect. -/
inductive Fault where
deriving DecidableEq, Repr

/-- Why an action has no step: the host asked for what its table forbids (40_command.md R87; 10_state.md R31). -/
inductive Refusal where
  /-- An arm of exec without a meaning; no arm is left. Safe: nothing can be proved of such a command. -/
  | notModelled (mnemonic : String)
  /-- Raised by LOAD and XFER when the bytes do not fit in IN (R87). Safe: the spec gives the action no step. -/
  | loadTooLong (len cap : Nat)
  /-- Raised by POKE when the index is past the end of IN (R87). Safe: the spec gives the action no step. -/
  | pokePastEnd (i len : Nat)
  /-- Raised by a read of a byte past the end of IN or OUT (R31). Safe: the spec gives the read no value. -/
  | readPastEnd (m : Space) (i len : Nat)
deriving DecidableEq, Repr

/-- A step's answer. -/
abbrev Answer := Host.Outcome State Fault Refusal

/-- The registers at their reset values (10_state.md R32), for an instance with the capacities `p`. -/
def State.resetWith (p : Params) : State :=
  { cmd := 0x00, status := 0x03, crcOut := 0x00000000, inSeq := [], outSeq := [],
    params := p, script := [], reads := [] }

/-- The machine right after reset (70_reset_and_hazards.md R160), with nothing loaded (log entries 1, 3, 4). -/
def State.reset : State := State.resetWith Params.ofVectors

end Sys2Proof.Machine
end

