-- ==== Sys2Proof/Machine/Flags.lean ====
section
/-! DEFINITION. STATUS: its fields, its encoding, and the values commands write (10_state.md R24, R28). -/

namespace Sys2Proof.Machine

/-- How a performed command came out: the result code 0..2 of `Complete` (40_command.md R84). -/
inductive Tag where
  | ok
  | tier1
  | tier2
deriving DecidableEq, Repr

/-- The RESULT field of a performed command (10_state.md R24). -/
def Tag.code : Tag → BitVec 2
  | .ok    => 0
  | .tier1 => 1
  | .tier2 => 2

/-- RESULT = NONE: no command performed (10_state.md R24). -/
def resultNone : BitVec 2 := 3

/-- The CMDERR field: why a command was not performed (10_state.md R24). Value 3 is reserved and never written. -/
inductive CmdErr where
  | none
  | badOpcode
  | capacity
deriving DecidableEq, Repr

def CmdErr.code : CmdErr → BitVec 2
  | .none      => 0
  | .badOpcode => 1
  | .capacity  => 2

/-- `STATUS = (CMDERR << 2) | RESULT`, bits 7:4 zero (10_state.md R24). -/
def statusByte (e : CmdErr) (result : BitVec 2) : Byte :=
  (e.code.setWidth 8 <<< 2) ||| result.setWidth 8

/-- `STATUS.RESULT`, bits 1:0 (10_state.md R24). -/
def statusResult (st : Byte) : BitVec 2 := st.extractLsb' 0 2

/-- `STATUS.CMDERR`, bits 3:2 (10_state.md R24). -/
def statusCmdErr (st : Byte) : BitVec 2 := st.extractLsb' 2 2

/-- STATUS bits 7:4, reserved (10_state.md R24). -/
def statusReserved (st : Byte) : BitVec 4 := st.extractLsb' 4 4

/-- STATUS of a performed command: CMDERR = NONE, RESULT = the tag (40_command.md R84). -/
def statusDone (t : Tag) : Byte := statusByte .none t.code

/-- STATUS after a reserved opcode, 0x07 (40_command.md R83). -/
def statusBadOpcode : Byte := statusByte .badOpcode resultNone

/-- STATUS when the output does not fit, 0x0B (40_command.md R84). -/
def statusCapacity : Byte := statusByte .capacity resultNone

end Sys2Proof.Machine
end

