-- ==== Sys2Proof/Machine/Operands.lean ====
section
/-! DEFINITION. Operand forms: reading the two byte spaces, subsequences, and big-endian words (00_scope.md R11 to R14; 20_memory.md R40 to R44). -/

namespace Sys2Proof.Machine

/-- The number of a register, a name and no bus address (10_state.md R22; 20_memory.md R46). -/
def Reg.number : Reg → Fin 5
  | .cmd    => 0
  | .status => 1
  | .crcOut => 2
  | .inSeq  => 3
  | .outSeq => 4

/-- The bytes of a space (20_memory.md R40). -/
def State.space (s : State) : Space → ByteSeq
  | .inSeq  => s.inSeq
  | .outSeq => s.outSeq

/-- The byte at index `i` of a space; none past the end, where there is no value (10_state.md R31). -/
def State.byteAt (s : State) (m : Space) (i : Nat) : Option Byte := (s.space m)[i]?

/-- The operand of every command: the whole of IN (30_encoding.md R61; 20_memory.md R44). -/
def State.operand (s : State) : ByteSeq := s.inSeq

/-- `q[lo .. hi)`, half-open (00_scope.md R11). -/
def slice (q : ByteSeq) (lo hi : Nat) : ByteSeq := (q.take hi).drop lo

/-- `MemRead(q, addr, n)`, defined only inside the sequence (00_scope.md R14). -/
def memRead (q : ByteSeq) (addr n : Nat) : Option ByteSeq :=
  if addr + n ≤ q.length then some (slice q addr (addr + n)) else none

/-- `be32(c)`: bits 31:24 first, bits 7:0 last (00_scope.md R13; 20_memory.md R41). -/
def be32 (c : Word) : ByteSeq :=
  [c.extractLsb' 24 8, c.extractLsb' 16 8, c.extractLsb' 8 8, c.extractLsb' 0 8]

/-- `be32_value(t)` of a 4-byte sequence (00_scope.md R13); no rule uses it at another length (DESIGN CHOICE
there, safe: log entry 15). -/
def be32Value (t : ByteSeq) : Word :=
  ((t.getD 0 0).setWidth 32 <<< 24) + ((t.getD 1 0).setWidth 32 <<< 16)
    + ((t.getD 2 0).setWidth 32 <<< 8) + (t.getD 3 0).setWidth 32

end Sys2Proof.Machine
end

