-- ==== Sys2Proof/Machine/Ops.lean ====
section
/-! DEFINITION. The named operations over registers and buffers: register writes (00_scope.md R14), completion of a command (40_command.md R84), the host's actions on IN and its reads (R87), and reset (70_reset_and_hazards.md R160).
The block takes no exception and returns from none (60_exceptions.md R140, R144, R145), so there is no such operation. -/

namespace Sys2Proof.Machine

/-- `CMD <- v`. -/
def State.setCmd (s : State) (v : Byte) : State := { s with cmd := v }

/-- `STATUS <- v`. -/
def State.setStatus (s : State) (v : Byte) : State := { s with status := v }

/-- `CRC_OUT <- c`. -/
def State.setCrcOut (s : State) (c : Word) : State := { s with crcOut := c }

/-- `IN <- q`. -/
def State.setIn (s : State) (q : ByteSeq) : State := { s with inSeq := q }

/-- `MemWrite(OUT, q)`: the whole of OUT, length included (00_scope.md R14; 20_memory.md R44). -/
def State.setOut (s : State) (q : ByteSeq) : State := { s with outSeq := q }

/-- The host's remaining actions become `as`. -/
def State.setScript (s : State) (as : List HostAction) : State := { s with script := as }

/-- The host has read one more value. -/
def State.addRead (s : State) (v : ReadValue) : State := { s with reads := s.reads ++ [v] }

/-- The values read so far become `vs`. -/
def State.setReads (s : State) (vs : List ReadValue) : State := { s with reads := vs }

/-- The buffers fit in their capacities (10_state.md R26): the form every operation keeps. A list of bytes
has one form per content, so nothing else needs normalising (DEDUCED, safe: log entry 5). -/
abbrev Memory.wf (s : State) : Prop :=
  s.inSeq.length ≤ s.params.inCap ∧ s.outSeq.length ≤ s.params.outCap

/-- A checksum that a command may or may not write to CRC_OUT. -/
def State.writeCrc (s : State) : Option Word → State
  | some c => s.setCrcOut c
  | none   => s

/-- `Complete(q, res, crcw)`: OUT, STATUS and perhaps CRC_OUT, or CAPACITY and nothing else (40_command.md R84). -/
def complete (q : ByteSeq) (t : Tag) (crcw : Option Word) (s : State) : State :=
  if q.length > s.params.outCap then s.setStatus statusCapacity
  else ((s.setOut q).setStatus (statusDone t)).writeCrc crcw

/-- `ReservedCmd()`: STATUS <- 0x07 (40_command.md R83). -/
def reservedCmd (s : State) : State := s.setStatus statusBadOpcode

/-- `LOAD bs`, refused when the bytes do not fit in IN (40_command.md R87). -/
def hostLoad (bs : ByteSeq) (s : State) : Answer :=
  if bs.length ≤ s.params.inCap then .next (s.setIn bs)
  else .refused (.loadTooLong bs.length s.params.inCap)

/-- `POKE i, v`, refused past the end of IN (40_command.md R87). -/
def hostPoke (i : Nat) (v : Byte) (s : State) : Answer :=
  if i < s.inSeq.length then .next (s.setIn (s.inSeq.set i v))
  else .refused (.pokePastEnd i s.inSeq.length)

/-- The value of a whole register (10_state.md R30; 20_memory.md R44). -/
def State.regValue (s : State) : Reg → ReadValue
  | .cmd    => .cmd s.cmd
  | .status => .status s.status
  | .crcOut => .crcOut s.crcOut
  | .inSeq  => .inSeq s.inSeq
  | .outSeq => .outSeq s.outSeq

/-- `READ r`: no side effect on the block (10_state.md R30). -/
def hostRead (r : Reg) (s : State) : Answer := .next (s.addRead (s.regValue r))

/-- A read of one byte, refused past the end (10_state.md R31). -/
def hostReadByte (m : Space) (i : Nat) (s : State) : Answer :=
  match s.byteAt m i with
  | some v => .next (s.addRead (.byteAt m i v))
  | none   => .refused (.readPastEnd m i (s.space m).length)

/-- RESET: every interface register takes its reset value (70_reset_and_hazards.md R160; 10_state.md R32). The
capacities are fixed, and the host's remaining actions and read values are the host's (log entry 4). -/
def applyReset (s : State) : State :=
  { s with cmd := 0x00, status := 0x03, crcOut := 0x00000000, inSeq := [], outSeq := [] }

end Sys2Proof.Machine
end

