-- ==== Sys2Proof/Machine/Checksum.lean ====
section
/-! DEFINITION. The checksum generator and the CRC32 command (41_checksum.md R90 to R95). -/

namespace Sys2Proof.Machine

/-- The reflected generator polynomial (41_checksum.md R90). -/
def crcPoly : Word := 0xEDB88320

/-- The initial register value (41_checksum.md R90). -/
def crcInit : Word := 0xFFFFFFFF

/-- The final XOR (41_checksum.md R90). -/
def crcFinal : Word := 0xFFFFFFFF

/-- One bit step: `if c[0] = 1 then (c >> 1) xor poly else c >> 1` (41_checksum.md R90). -/
def crcBit (c : Word) : Word := if c.getLsbD 0 then (c >>> 1) ^^^ crcPoly else c >>> 1

/-- `k` bit steps. -/
def crcBits : Nat → Word → Word
  | 0, c     => c
  | k + 1, c => crcBits k (crcBit c)

/-- One byte: into the low end of the register, then 8 bit steps (41_checksum.md R90). -/
def crcByte (c : Word) (b : Byte) : Word := crcBits 8 (c ^^^ b.setWidth 32)

/-- `CRC32(d)` (41_checksum.md R90; UNVERIFIED against the repository: log entry 7). -/
def crc32 (d : ByteSeq) : Word := d.foldl crcByte crcInit ^^^ crcFinal

/-- `T[n]`, the table of the byte-serial form (41_checksum.md R92). -/
def crcTable (n : Byte) : Word := crcBits 8 (n.setWidth 32)

/-- One byte of the table form: `C <- (C >> 8) xor T[(C xor b)[7:0]]` (41_checksum.md R92). -/
def crcTableByte (c : Word) (b : Byte) : Word :=
  (c >>> 8) ^^^ crcTable ((c ^^^ b.setWidth 32).extractLsb' 0 8)

/-- The byte-serial datapath form of CRC32 (41_checksum.md R92). -/
def crc32Serial (d : ByteSeq) : Word := d.foldl crcTableByte crcInit ^^^ crcFinal

/-- `Trailer(P)`: over the raw payload only, most significant byte first (41_checksum.md R95). -/
def trailer (p : ByteSeq) : ByteSeq := be32 (crc32 p)

/-- `CRC32`, opcode 0x03 (41_checksum.md R94). -/
def execCrc32 (s : State) : Answer :=
  let c := crc32 s.operand
  .next (complete (be32 c) .ok (some c) s)

end Sys2Proof.Machine
end

