-- ==== Sys2Proof/Machine/Control.lean ====
section
/-! DEFINITION. NOP and the reserved opcodes (40_command.md R82, R83). The opcode itself is in CMD by then (R80). -/

namespace Sys2Proof.Machine

/-- `NOP`, opcode 0x00: skip (40_command.md R82). -/
def execNop (s : State) : Answer := .next s

/-- Reserved 0x04..0x07 (40_command.md R83). -/
def execReserved04 (s : State) : Answer := .next (reservedCmd s)

/-- Reserved 0x08..0x0F (40_command.md R83). -/
def execReserved08 (s : State) : Answer := .next (reservedCmd s)

/-- Reserved 0x10..0x1F (40_command.md R83). -/
def execReserved10 (s : State) : Answer := .next (reservedCmd s)

/-- Reserved 0x20..0x3F (40_command.md R83). -/
def execReserved20 (s : State) : Answer := .next (reservedCmd s)

/-- Reserved 0x40..0x7F (40_command.md R83). -/
def execReserved40 (s : State) : Answer := .next (reservedCmd s)

/-- Reserved 0x80..0xFF (40_command.md R83). -/
def execReserved80 (s : State) : Answer := .next (reservedCmd s)

end Sys2Proof.Machine
end

