-- ==== Sys2Proof/Machine/Stuffing.lean ====
section
/-! DEFINITION. The zero-byte-free framer and the frame-delimiter recognizer (42_stuffing.md R100 to R107). -/

namespace Sys2Proof.Machine

/-- The delimiter, `0x00` (00_scope.md R9). -/
def delimiter : Byte := 0x00

/-- The most data bytes in a block, 254 (00_scope.md R9). -/
def maxBlock : Nat := 254

/-- The code byte of a full block, `0xFF`, after which no zero is implied (42_stuffing.md R100). -/
def fullCode : Byte := 0xFF

/-- A block as it goes out: `[len(blk) + 1] ++ blk` (42_stuffing.md R100). -/
def emitBlock (blk : ByteSeq) : ByteSeq := BitVec.ofNat 8 (blk.length + 1) :: blk

/-- The loop of `Stuff` with the pending bytes `blk` (42_stuffing.md R100). -/
def stuffFrom (blk : ByteSeq) : ByteSeq → ByteSeq
  | [] => emitBlock blk
  | x :: rest =>
    if x = delimiter then emitBlock blk ++ stuffFrom [] rest
    else if blk.length + 1 = maxBlock then
      if rest = [] then emitBlock (blk ++ [x])
      else emitBlock (blk ++ [x]) ++ stuffFrom [] rest
    else stuffFrom (blk ++ [x]) rest

/-- `Stuff(d)` (42_stuffing.md R100; UNVERIFIED against the repository: log entry 7). -/
def stuff (d : ByteSeq) : ByteSeq := stuffFrom [] d

/-- The zero implied after a block of code `c` when the bytes `more` follow it (42_stuffing.md R103). -/
def impliedZero (c : Byte) (more : ByteSeq) : ByteSeq :=
  if c ≠ fullCode ∧ more ≠ [] then [delimiter] else []

/-- The loop of `Unstuff` on the bytes from index `i` on (42_stuffing.md R103). Each pass takes at least one
byte, so as many passes as there are bytes always reach the end. -/
def unstuffLoop : Nat → ByteSeq → Option ByteSeq
  | _, []          => some []
  | 0, _ :: _      => none
  | n + 1, c :: tl =>
    if c = delimiter then none
    else if c.toNat > tl.length + 1 then none
    else
      let data := tl.take (c.toNat - 1)
      let more := tl.drop (c.toNat - 1)
      if delimiter ∈ data then none
      else (unstuffLoop n more).map fun r => data ++ impliedZero c more ++ r

/-- `Unstuff(b)`; none when `b` is structurally invalid (42_stuffing.md R103, R104). -/
def unstuff (b : ByteSeq) : Option ByteSeq :=
  if b.length = 0 then none else unstuffLoop b.length b

/-- The mode of the byte-serial unstuffer (42_stuffing.md R106). -/
inductive UnstuffMode where
  | code
  | data
deriving DecidableEq, Repr

/-- The working state of the byte-serial unstuffer (42_stuffing.md R106; 10_state.md R27). -/
structure UnstuffUnit where
  mode  : UnstuffMode
  rem   : Nat
  full  : Bool
  first : Bool
  err   : Bool
  out   : ByteSeq
deriving DecidableEq, Repr

/-- `start` (42_stuffing.md R106). -/
def unstuffStart : UnstuffUnit :=
  { mode := .code, rem := 0, full := false, first := true, err := false, out := [] }

/-- A code byte arrives: the implied zero of the block before it, then the new block (42_stuffing.md R106). -/
def unstuffCodeByte (u : UnstuffUnit) (x : Byte) : UnstuffUnit :=
  { mode  := if x.toNat - 1 > 0 then .data else .code
    rem   := x.toNat - 1
    full  := x == fullCode
    first := false
    err   := u.err
    out   := if !u.first && !u.full then u.out ++ [delimiter] else u.out }

/-- A data byte arrives (42_stuffing.md R106). -/
def unstuffDataByte (u : UnstuffUnit) (x : Byte) : UnstuffUnit :=
  { u with
    out  := u.out ++ [x]
    rem  := u.rem - 1
    mode := if u.rem - 1 = 0 then .code else .data }

/-- One byte of the byte-serial unstuffer (42_stuffing.md R106). -/
def unstuffByte (u : UnstuffUnit) (x : Byte) : UnstuffUnit :=
  if u.err then u
  else if x = delimiter then { u with err := true }
  else
    match u.mode with
    | .code => unstuffCodeByte u x
    | .data => unstuffDataByte u x

/-- `end`: the result of the byte-serial unstuffer (42_stuffing.md R106). -/
def unstuffEnd (u : UnstuffUnit) : Option ByteSeq :=
  if u.err ∨ u.first ∨ u.mode = .data then none else some u.out

/-- The byte-serial datapath form of Unstuff (42_stuffing.md R106). -/
def unstuffSerial (b : ByteSeq) : Option ByteSeq := unstuffEnd (b.foldl unstuffByte unstuffStart)

/-- `StripDelim(f)`: one final `0x00` is removed (42_stuffing.md R107). -/
def stripDelim (f : ByteSeq) : ByteSeq :=
  if f.getLast? = some delimiter then f.dropLast else f

end Sys2Proof.Machine
end

