-- ==== Sys2Proof/Machine/FrameCodec.lean ====
section
/-! DEFINITION. The frame codec: Encode, Decode with its two fallbacks, and the commands ENCODE and DECODE (43_frame_codec.md R120 to R131). -/

namespace Sys2Proof.Machine

/-- The trailer length, 4 bytes (00_scope.md R9). -/
def trailerLen : Nat := 4

/-- The index of the sentinel byte (00_scope.md R9). -/
def sentinelIndex : Nat := 1

/-- The tier-1 sentinel (43_frame_codec.md R125). -/
def tier1Sentinel : Byte := 0x02

/-- The tier-2 sentinel (43_frame_codec.md R126). -/
def tier2Sentinel : Byte := 0x03

/-- `Encode(P) = Stuff(P ++ Trailer(P)) ++ [0x00]` (43_frame_codec.md R120; 30_encoding.md R66). -/
def encodeFrame (p : ByteSeq) : ByteSeq := stuff (p ++ trailer p) ++ [delimiter]

/-- `EncLenMax(n) = n + 5 + ceil((n + 4) / 254)` (43_frame_codec.md R127). -/
def encLenMax (n : Nat) : Nat := n + 5 + (n + 4 + 253) / 254

/-- `Tier1(f)`: the original input with byte 1 set (43_frame_codec.md R125). -/
def tier1 (f : ByteSeq) : ByteSeq :=
  if f.length ≥ 2 then f.set sentinelIndex tier1Sentinel else f

/-- `Tier2(r)`: the full unstuffed result with byte 1 set (43_frame_codec.md R126). -/
def tier2 (r : ByteSeq) : ByteSeq :=
  if r.length ≥ 2 then r.set sentinelIndex tier2Sentinel else r

/-- Steps 4 to 7 of Decode, on an unstuffed result of at least 4 bytes (43_frame_codec.md R122, R124). -/
def checkTrailer (r : ByteSeq) : ByteSeq × Tag :=
  let payload := slice r 0 (r.length - trailerLen)
  let receivedCrc := be32Value (slice r (r.length - trailerLen) r.length)
  if receivedCrc = crc32 payload then (payload, .ok) else (tier2 r, .tier2)

/-- `Decode(f)` (43_frame_codec.md R122, R123). -/
def decodeFrame (f : ByteSeq) : ByteSeq × Tag :=
  match unstuff (stripDelim f) with
  | none   => (tier1 f, .tier1)
  | some r => if r.length < trailerLen then (tier1 f, .tier1) else checkTrailer r

/-- `ENCODE`, opcode 0x01 (43_frame_codec.md R121). -/
def execEncode (s : State) : Answer :=
  .next (complete (encodeFrame s.operand) .ok (some (crc32 s.operand)) s)

/-- `DECODE`, opcode 0x02 (43_frame_codec.md R128). -/
def execDecode (s : State) : Answer :=
  let d := decodeFrame s.operand
  .next (complete d.1 d.2 none s)

end Sys2Proof.Machine
end

