-- ==== Sys2Proof/Machine/Host.lean ====
section
/-! DEFINITION. The host's actions (40_command.md R87), the issue of a command (R80), and the next action of the script. -/

namespace Sys2Proof.Machine

/-- Issue: first `CMD <- v`, then `Dispatch(v)`, as one step (40_command.md R80, R81). The CMD
write stands here, not in exec (DEDUCED, safe: log entry 9). -/
def issue (v : Byte) (s : State) : Answer := exec (decodeOp v) (s.setCmd v)

/-- One host action (40_command.md R87; 30_encoding.md R68, R69). -/
def perform (a : HostAction) (s : State) : Answer :=
  match a with
  | .load bs       => hostLoad bs s
  | .poke i v      => hostPoke i v s
  | .writeCmd v    => issue v s
  | .writeStatus _ => .next s
  | .writeCrcOut _ => .next s
  | .read r        => hostRead r s
  | .readByte m i  => hostReadByte m i s
  | .reset         => .next (applyReset s)
  | .xfer          => hostLoad s.outSeq s

/-- The host performs its next action; without one, the block holds its state (60_exceptions.md R152;
DESIGN CHOICE: log entry 3). -/
def hostTurn (s : State) : Answer :=
  match s.script with
  | []        => .next s
  | a :: rest => perform a (s.setScript rest)

/-- `s` with the host about to write the command word `w` to CMD (log entry 3). -/
def withCommand (s : State) (w : Nat) : State :=
  s.setScript (.writeCmd (BitVec.ofNat 8 w) :: s.script)

end Sys2Proof.Machine
end

