-- ==== Sys2Proof/Machine/Step.lean ====
section
/-! DEFINITION. One step of the machine: the host's next action (00_scope.md R17, R18; 20_memory.md R48). -/

namespace Sys2Proof.Machine

/-- One step: the next host action, whole (40_command.md R80, R87). -/
def step (s : State) : Host.Outcome State Fault Refusal := hostTurn s

/-- `s` where the next step issues the command word `w`. A command word has 8 bits (30_encoding.md R65); bits
above them are not part of it. -/
def State.withFetchWord (s : State) (_nbits w : Nat) : State := withCommand s w

end Sys2Proof.Machine
end

