-- ==== Sys2Proof/Machine/Instances.lean ====
section
/-! DEFINITION. Several instances of the block in one system (60_exceptions.md R150). -/

namespace Sys2Proof.Machine

/-- The instances of a system; they have no identifiers, so a position in the list is the model's name for one. -/
abbrev System := List State

/-- Instance `k` takes a step; no other instance has part in it (60_exceptions.md R150). A position that holds no
instance has nothing to step (DESIGN CHOICE, safe: log entry 13). -/
def System.stepAt (sys : System) (k : Nat) : Host.Outcome System Fault Refusal :=
  match sys[k]? with
  | none   => .next sys
  | some s =>
    match step s with
    | .next t    => .next (sys.set k t)
    | .fault f   => .fault f
    | .refused r => .refused r

end Sys2Proof.Machine
end

