-- ==== Sys2Proof/Machine/Run.lean ====
section
/-! DEFINITION. A run of a host script and its observation (70_reset_and_hazards.md R168). -/

namespace Sys2Proof.Machine

/-- What a run shows: the final interface state and the value of every READ in the script, oldest first (70_reset_and_hazards.md R168). -/
structure Observation where
  cmd    : Byte
  status : Byte
  crcOut : Word
  inSeq  : ByteSeq
  outSeq : ByteSeq
  reads  : List ReadValue
deriving DecidableEq, Repr

/-- The observation of the state `t` at the end of a run whose record of values read began empty. -/
def observe (t : State) : Observation :=
  { cmd := t.cmd, status := t.status, crcOut := t.crcOut, inSeq := t.inSeq, outSeq := t.outSeq, reads := t.reads }

/-- The script `as` applied from `s`, one step an action, in whose last state the values read are those of `s` and
then the script's; it stops at a refused action (70_reset_and_hazards.md R168). -/
def runFrom (s : State) (as : List HostAction) : Answer :=
  Sys2Proof.core.run as.length (s.setScript as)

/-- The observation of the run of `as` from `s`, none when it is stuck at a refused action (70_reset_and_hazards.md
R168). The values read before the run are no part of it, so the run begins with none (log entry 4). -/
def observeRun (s : State) (as : List HostAction) : Option Observation :=
  match runFrom (s.setReads []) as with
  | .next t    => some (observe t)
  | .fault _   => none
  | .refused _ => none

end Sys2Proof.Machine
end

