-- ==== Sys2Proof/Machine/Script.lean ====
section
/-! DEFINITION. Host-script lines as text (30_encoding.md R68, R69). -/

namespace Sys2Proof.Machine

/-- Characters between words of a line; the comma is the one of `POKE i, v`. -/
def isGap (c : Char) : Bool := c == ' ' || c == '\t' || c == ','

/-- The line without its comment, which `;` starts (30_encoding.md R68). -/
def dropComment (line : List Char) : List Char := line.takeWhile (· != ';')

/-- The words of a line; `word` holds the characters of the one being read. -/
def wordsFrom (word : List Char) : List Char → List (List Char)
  | []        => if word.isEmpty then [] else [word]
  | c :: rest =>
    if isGap c then (if word.isEmpty then wordsFrom [] rest else word :: wordsFrom [] rest)
    else wordsFrom (word ++ [c]) rest

/-- The value of a decimal digit. -/
def decDigit (c : Char) : Option Nat :=
  if '0'.toNat ≤ c.toNat ∧ c.toNat ≤ '9'.toNat then some (c.toNat - '0'.toNat) else none

/-- The value of a hexadecimal digit of either case (log entry 6). -/
def hexDigit (c : Char) : Option Nat :=
  if 'A'.toNat ≤ c.toNat ∧ c.toNat ≤ 'F'.toNat then some (c.toNat - 'A'.toNat + 10)
  else if 'a'.toNat ≤ c.toNat ∧ c.toNat ≤ 'f'.toNat then some (c.toNat - 'a'.toNat + 10)
  else decDigit c

/-- A byte as two hexadecimal digits. -/
def hexByte : List Char → Option Byte
  | [h, l] => do return BitVec.ofNat 8 (16 * (← hexDigit h) + (← hexDigit l))
  | _      => none

/-- A decimal number (DESIGN CHOICE: log entry 6). -/
def decNumber : List Char → Option Nat
  | []        => none
  | c :: rest => (c :: rest).foldl (fun acc d => do return 10 * (← acc) + (← decDigit d)) (some 0)

/-- The operand of `CMD`: a mnemonic or `0xHH`; a mnemonic and its hex form are the same command (30_encoding.md R68). -/
def cmdWord : List Char → Option Byte
  | ['N', 'O', 'P']                => some (opcodeOf .nop)
  | ['E', 'N', 'C', 'O', 'D', 'E'] => some (opcodeOf .encode)
  | ['D', 'E', 'C', 'O', 'D', 'E'] => some (opcodeOf .decode)
  | ['C', 'R', 'C', '3', '2']      => some (opcodeOf .crc32)
  | '0' :: 'x' :: digits           => hexByte digits
  | _                              => none

/-- The operand of `READ` (30_encoding.md R68). -/
def regWord : List Char → Option Reg
  | ['C', 'M', 'D']                     => some .cmd
  | ['S', 'T', 'A', 'T', 'U', 'S']      => some .status
  | ['C', 'R', 'C', '_', 'O', 'U', 'T'] => some .crcOut
  | ['I', 'N']                          => some .inSeq
  | ['O', 'U', 'T']                     => some .outSeq
  | _                                   => none

/-- What a line of a script is. -/
inductive ScriptLine where
  /-- No action: the line is blank or a comment. -/
  | blank
  | action (a : HostAction)
  /-- No line of the syntax. -/
  | illFormed
deriving DecidableEq, Repr

/-- An action, or no line of the syntax. -/
def ScriptLine.ofAction : Option HostAction → ScriptLine
  | some a => .action a
  | none   => .illFormed

/-- The action the words of a line name (30_encoding.md R68, R69). -/
def readWords : List (List Char) → ScriptLine
  | []                                    => .blank
  | ['L', 'O', 'A', 'D'] :: bytes         => .ofAction ((bytes.mapM hexByte).map .load)
  | [['P', 'O', 'K', 'E'], i, v]          => .ofAction (do return .poke (← decNumber i) (← hexByte v))
  | [['C', 'M', 'D'], w]                  => .ofAction ((cmdWord w).map .writeCmd)
  | [['R', 'E', 'A', 'D'], r]             => .ofAction ((regWord r).map .read)
  | [['R', 'E', 'S', 'E', 'T']]           => .action .reset
  | [['X', 'F', 'E', 'R']]                => .action .xfer
  | _                                     => .illFormed

/-- One line of a host script (30_encoding.md R68): one action, or none. -/
def readLine (line : List Char) : ScriptLine := readWords (wordsFrom [] (dropComment line))

end Sys2Proof.Machine
end

