-- ==== Sys2Proof/Machine/WireFormat.lean ====
section
/-! DEFINITION. The wire view of a stuffed body: its blocks (30_encoding.md R67) and what makes it malformed (42_stuffing.md R104). -/

namespace Sys2Proof.Machine

/-- The data bytes of a block: at most 254, none of them zero (30_encoding.md R67). -/
def blockOk (d : ByteSeq) : Bool := decide (d.length ≤ maxBlock) && !d.contains delimiter

/-- The bytes of a body of the given blocks: each block's code byte `len + 1`, then its data (30_encoding.md R67). -/
def bodyBytes (blocks : List ByteSeq) : ByteSeq := blocks.flatMap emitBlock

/-- The unstuffed data of a body of the given blocks: one implied zero after each block that is neither the last
nor full (30_encoding.md R67). -/
def bodyData : List ByteSeq → ByteSeq
  | []            => []
  | [d]           => d
  | d :: e :: rest =>
    d ++ (if d.length < maxBlock then [delimiter] else []) ++ bodyData (e :: rest)

/-- Index `i` of `b` is where a code byte must stand: index 0, or the index just past a block that ends inside
`b` (42_stuffing.md R103). -/
inductive CodeAt (b : ByteSeq) : Nat → Prop where
  | first : b ≠ [] → CodeAt b 0
  | next {i : Nat} {c : Byte} : CodeAt b i → b[i]? = some c → c ≠ delimiter →
      i + c.toNat < b.length → CodeAt b (i + c.toNat)

/-- M1: `b` is empty (42_stuffing.md R104). -/
def MalformedEmpty (b : ByteSeq) : Prop := b = []

/-- M2: a code byte is `0x00` (42_stuffing.md R104). -/
def MalformedCode (b : ByteSeq) : Prop := ∃ i, CodeAt b i ∧ b[i]? = some delimiter

/-- M3: a code byte `c` at index `i` has `i + c > len(b)` (42_stuffing.md R104). -/
def MalformedRun (b : ByteSeq) : Prop :=
  ∃ i c, CodeAt b i ∧ b[i]? = some c ∧ i + c.toNat > b.length

/-- M4: a data byte inside a block is `0x00` (42_stuffing.md R104). -/
def MalformedData (b : ByteSeq) : Prop :=
  ∃ i c j, CodeAt b i ∧ b[i]? = some c ∧ 1 ≤ j ∧ j < c.toNat ∧ b[i + j]? = some delimiter

end Sys2Proof.Machine
end

