-- ==== Sys2Proof/Safety.lean ====
section
/-! DEFINITION. What claims speak of: legal STATUS values, the machine's invariant, computing commands, bits of a sequence on the wire. -/

namespace Sys2Proof

/-- The three computing commands (40_command.md R84). -/
def Instr.computing : Instr → Bool
  | .nop => false
  | .encode => true
  | .decode => true
  | .crc32 => true
  | .reserved04 _ => false
  | .reserved08 _ => false
  | .reserved10 _ => false
  | .reserved20 _ => false
  | .reserved40 _ => false
  | .reserved80 _ => false

/-- The two commands that write CRC_OUT (10_state.md R22, R25). -/
def Instr.writesCrc : Instr → Bool
  | .nop => false
  | .encode => true
  | .decode => false
  | .crc32 => true
  | .reserved04 _ => false
  | .reserved08 _ => false
  | .reserved10 _ => false
  | .reserved20 _ => false
  | .reserved40 _ => false
  | .reserved80 _ => false

/-- The commands of the reserved opcodes (40_command.md R83). -/
def Instr.reserved : Instr → Bool
  | .nop => false
  | .encode => false
  | .decode => false
  | .crc32 => false
  | .reserved04 _ => true
  | .reserved08 _ => true
  | .reserved10 _ => true
  | .reserved20 _ => true
  | .reserved40 _ => true
  | .reserved80 _ => true

open Machine in
/-- What a computing command puts in OUT when it fits, computed from IN alone (40_command.md R84, R85): the frame,
the payload or fallback, or the checksum's four bytes. The other commands put nothing there. -/
def Instr.output (q : ByteSeq) : Instr → ByteSeq
  | .nop => []
  | .encode => encodeFrame q
  | .decode => (decodeFrame q).1
  | .crc32 => be32 (Machine.crc32 q)
  | .reserved04 _ => []
  | .reserved08 _ => []
  | .reserved10 _ => []
  | .reserved20 _ => []
  | .reserved40 _ => []
  | .reserved80 _ => []

end Sys2Proof

namespace Sys2Proof.Machine

/-- The only values STATUS takes (10_state.md R24). -/
def legalStatus (st : Byte) : Bool :=
  st == 0x00 || st == 0x01 || st == 0x02 || st == 0x03 || st == 0x07 || st == 0x0B

/-- The invariant of the machine: the buffers fit (10_state.md R26), STATUS is legal (R24), and while STATUS is
0x03 no command has written a result, so OUT and CRC_OUT are as reset left them (R24, R32). -/
abbrev State.Inv (s : State) : Prop :=
  Memory.wf s ∧ legalStatus s.status = true ∧ (s.status = 0x03 → s.outSeq = [] ∧ s.crcOut = 0x00000000)

/-- Bit `n` of a sequence in the order the checksum takes bits: byte by byte, bit 0 of each first (20_memory.md R42). -/
def bitAt (d : ByteSeq) (n : Nat) : Bool := (d.getD (n / 8) 0).getLsbD (n % 8)

/-- The actions that read: a whole register, or one byte of a space (40_command.md R87; 10_state.md R31). -/
def HostAction.isRead : HostAction → Bool
  | .load _ => false
  | .poke _ _ => false
  | .writeCmd _ => false
  | .writeStatus _ => false
  | .writeCrcOut _ => false
  | .read _ => true
  | .readByte _ _ => true
  | .reset => false
  | .xfer => false

/-- The next step of `s` refuses: the host's next action is one its table forbids (40_command.md R87; 10_state.md R31). -/
abbrev State.nextActionRefused (s : State) : Prop :=
  (∃ bs rest, s.script = .load bs :: rest ∧ s.params.inCap < bs.length) ∨
  (∃ i v rest, s.script = .poke i v :: rest ∧ s.inSeq.length ≤ i) ∨
  (∃ m i rest, s.script = .readByte m i :: rest ∧ (s.space m).length ≤ i) ∨
  (∃ rest, s.script = .xfer :: rest ∧ s.params.inCap < s.outSeq.length)

end Sys2Proof.Machine
end

