-- ==== Sys2Proof/Certificates/Slice0/Obligations.lean ====
section
/-! DEFINITION. The statements for the provers. Each docstring names the rule of spec/ it formalises. Every statement holds at every pair of capacities, since they are part of the state. -/

open Sys2Proof Sys2Proof.Machine

/-! ## Command words -/

/-- Every command the table has decodes from its own word, with its opcode whole, and every byte is the word of the
well-formed command it decodes to (30_encoding.md R62, R63; spec/opcode_table.json). -/
def Obligations.DecodeInvertsEncode : Prop :=
  (∀ i : Instr, i.wellFormed = true → decode (encode i) = .command i) ∧
  (∀ v : Byte, (decodeOp v).wellFormed = true ∧ encode (decodeOp v) = [v])

/-- The opcode map (30_encoding.md R62). -/
def Obligations.OpcodeMap : Prop :=
  decode [0x00] = .command .nop ∧ decode [0x01] = .command .encode ∧
  decode [0x02] = .command .decode ∧ decode [0x03] = .command .crc32 ∧
  ∀ v : Byte, 0x04 ≤ v.toNat → ∃ i, decode [v] = .command i ∧ i.reserved = true

/-- Words written out from the table decode to their commands (spec/opcode_table.json). -/
def Obligations.TableWordsDecode : Prop :=
  decodeTableWord 8 0b00000000 = some .nop ∧ decodeTableWord 8 0b00000010 = some .decode ∧
  decodeTableWord 8 0b00000111 = some (.reserved04 0x07) ∧
  decodeTableWord 8 0b00111111 = some (.reserved20 0x3F) ∧
  decodeTableWord 8 0b01111110 = some (.reserved40 0x7E) ∧
  decodeTableWord 8 0b10000000 = some (.reserved80 0x80)

/-- Bytes that are not exactly one byte are no command word (30_encoding.md R65). -/
def Obligations.OnlyOneByteIsACommandWord : Prop :=
  ∀ bs : List Byte, (∃ i, decode bs = .command i) ↔ bs.length = 1

/-! ## Issue and dispatch -/

/-- A write of `v` to CMD sets CMD, then runs the command that `v` decodes to, as one step that completes
(40_command.md R80). -/
def Obligations.StepRunsDecodedCommand : Prop :=
  ∀ (s : State) (v : Byte) (rest : List HostAction) (i : Instr),
    s.script = .writeCmd v :: rest → decode [v] = .command i →
    step s = exec i { s with cmd := v, script := rest } ∧ ∃ t, step s = .next t

/-- `withFetchWord` places a write of the word to CMD as the next action; the very next step runs it (the model's
choice, log entry 3). -/
def Obligations.FetchWordRunsNext : Prop :=
  ∀ (s : State) (w : Nat) (i : Instr), w < 256 → decodeTableWord 8 w = some i →
    step (s.withFetchWord 8 w) = exec i { s with cmd := BitVec.ofNat 8 w }

/-- Dispatch selects on all 8 bits of the byte written (40_command.md R81). -/
def Obligations.DispatchByOpcode : Prop :=
  ∀ s : State,
    issue 0x00 s = execNop { s with cmd := 0x00 } ∧
    issue 0x01 s = execEncode { s with cmd := 0x01 } ∧
    issue 0x02 s = execDecode { s with cmd := 0x02 } ∧
    issue 0x03 s = execCrc32 { s with cmd := 0x03 } ∧
    ∀ v : Byte, 0x04 ≤ v.toNat → issue v s = .next (reservedCmd { s with cmd := v })

/-! ## The commands -/

/-- NOP changes nothing but CMD, whatever the state holds (40_command.md R82). -/
def Obligations.NopChangesOnlyCmd : Prop :=
  (∀ s : State, exec .nop s = .next s) ∧
  (∀ (s : State) (rest : List HostAction), s.script = .writeCmd 0x00 :: rest →
    step s = .next { s with cmd := 0x00, script := rest })

/-- Every reserved command writes STATUS 0x07 and nothing else; CMD keeps the reserved value (40_command.md R83). -/
def Obligations.ReservedReportsBadOpcode : Prop :=
  (∀ (s : State) (op : Byte),
    exec (.reserved04 op) s = .next { s with status := 0x07 } ∧
    exec (.reserved08 op) s = .next { s with status := 0x07 } ∧
    exec (.reserved10 op) s = .next { s with status := 0x07 } ∧
    exec (.reserved20 op) s = .next { s with status := 0x07 } ∧
    exec (.reserved40 op) s = .next { s with status := 0x07 } ∧
    exec (.reserved80 op) s = .next { s with status := 0x07 }) ∧
  (∀ (s : State) (v : Byte) (rest : List HostAction), 0x04 ≤ v.toNat → s.script = .writeCmd v :: rest →
    step s = .next { s with cmd := v, status := 0x07, script := rest })

/-- The CRC32 command: result, STATUS, CAPACITY case, corner cases and example (41_checksum.md R94). -/
def Obligations.Crc32CommandResult : Prop :=
  (∀ s : State, 4 ≤ s.params.outCap →
    exec .crc32 s = .next { s with outSeq := be32 (crc32 s.inSeq), crcOut := crc32 s.inSeq, status := 0x00 }) ∧
  (∀ s : State, s.params.outCap < 4 → exec .crc32 s = .next { s with status := 0x0B }) ∧
  crc32 [] = 0x00000000 ∧ be32 (crc32 []) = [0x00, 0x00, 0x00, 0x00] ∧
  crc32 [0xFF, 0xFF, 0xFF, 0xFF] = 0xFFFFFFFF ∧
  crc32 [0x31, 0x32, 0x33, 0x34, 0x35, 0x36, 0x37, 0x38, 0x39] = 0xCBF43926 ∧
  be32 0xCBF43926 = [0xCB, 0xF4, 0x39, 0x26]

/-- The ENCODE command: result, STATUS, CAPACITY case, the empty payload and the example (43_frame_codec.md R121). -/
def Obligations.EncodeCommandResult : Prop :=
  (∀ s : State, (encodeFrame s.inSeq).length ≤ s.params.outCap →
    exec .encode s =
      .next { s with outSeq := encodeFrame s.inSeq, crcOut := crc32 s.inSeq, status := 0x00 }) ∧
  (∀ s : State, s.params.outCap < (encodeFrame s.inSeq).length →
    exec .encode s = .next { s with status := 0x0B }) ∧
  encodeFrame [] = [0x01, 0x01, 0x01, 0x01, 0x01, 0x00] ∧
  encodeFrame [0xAA, 0xBB] = [0x07, 0xAA, 0xBB, 0x49, 0x82, 0x2C, 0x98, 0x00] ∧
  crc32 [0xAA, 0xBB] = 0x49822C98

/-- The DECODE command: the payload or fallback in OUT, the tag in STATUS, CRC_OUT left alone, the CAPACITY case,
corner cases and example (43_frame_codec.md R128). -/
def Obligations.DecodeCommandResult : Prop :=
  (∀ (s : State) (q : ByteSeq) (t : Tag), decodeFrame s.inSeq = (q, t) → q.length ≤ s.params.outCap →
    exec .decode s = .next { s with
      outSeq := q
      status := match t with
        | .ok => 0x00
        | .tier1 => 0x01
        | .tier2 => 0x02 }) ∧
  (∀ (s : State) (q : ByteSeq) (t : Tag), decodeFrame s.inSeq = (q, t) → s.params.outCap < q.length →
    exec .decode s = .next { s with status := 0x0B }) ∧
  decodeFrame [] = ([], .tier1) ∧ decodeFrame [0x00] = ([0x00], .tier1) ∧
  decodeFrame [0x07, 0xAA, 0xBB, 0x49, 0x82, 0x2C, 0x67, 0x00] =
    ([0xAA, 0x03, 0x49, 0x82, 0x2C, 0x67], .tier2)

/-- Completion of the computing commands: CAPACITY depends only on the output's length and writes STATUS alone;
otherwise OUT, a result code and, for ENCODE and CRC32, CRC_OUT are written (40_command.md R84). -/
def Obligations.ComputingCommandsComplete : Prop :=
  ∀ (i : Instr) (s : State), i.computing = true →
    (s.params.outCap < (i.output s.inSeq).length → exec i s = .next { s with status := 0x0B }) ∧
    ((i.output s.inSeq).length ≤ s.params.outCap →
      ∃ st : Byte, (st = 0x00 ∨ st = 0x01 ∨ st = 0x02) ∧
        exec i s = .next { s with
          outSeq := i.output s.inSeq
          status := st
          crcOut := if i.writesCrc then crc32 s.inSeq else s.crcOut })

/-- Every command completes from every state and leaves IN as it was, also in DECODE's tier-1 fallback, where OUT is
a changed copy (40_command.md R86). -/
def Obligations.EveryCommandCompletesAndKeepsIn : Prop :=
  (∀ (i : Instr) (s : State), ∃ t, exec i s = .next t ∧ t.inSeq = s.inSeq) ∧
  (∀ s : State, unstuff (stripDelim s.inSeq) = none → 2 ≤ s.inSeq.length → s.inSeq.length ≤ s.params.outCap →
    ∃ t, exec .decode s = .next t ∧ t.inSeq = s.inSeq ∧ t.outSeq = s.inSeq.set 1 0x02)

/-- The frame of every command. Registers: CMD, IN, the capacities and the host's part of the run are unchanged by
all; STATUS by NOP; CRC_OUT by all but a performed ENCODE or CRC32; OUT by all but a performed computing command.
Bytes: every byte of IN reads as before, and a byte of OUT reads as before unless the command stored its whole
output there, from index 0 to the output's length (10_state.md R22, R25; 20_memory.md R44; 70_reset_and_hazards.md R163). -/
def Obligations.CommandFrame : Prop :=
  ∀ (i : Instr) (s t : State), exec i s = .next t →
    t.cmd = s.cmd ∧ t.params = s.params ∧ t.script = s.script ∧ t.reads = s.reads ∧
    (∀ k, t.byteAt .inSeq k = s.byteAt .inSeq k) ∧
    (i = .nop → t.status = s.status) ∧
    (i.writesCrc = false → t.crcOut = s.crcOut) ∧
    (i.computing = false → ∀ k, t.byteAt .outSeq k = s.byteAt .outSeq k) ∧
    (i.computing = true → s.params.outCap < (i.output s.inSeq).length →
      t.crcOut = s.crcOut ∧ ∀ k, t.byteAt .outSeq k = s.byteAt .outSeq k) ∧
    (i.computing = true → (i.output s.inSeq).length ≤ s.params.outCap →
      ∀ k, t.byteAt .outSeq k = (i.output s.inSeq)[k]?)

/-- The results of a computing command depend on IN and OUT_CAP alone (40_command.md R85). -/
def Obligations.ResultsDependOnInAlone : Prop :=
  ∀ (i : Instr) (s u : State), i.computing = true → s.inSeq = u.inSeq → s.params.outCap = u.params.outCap →
    ∃ t w, exec i s = .next t ∧ exec i u = .next w ∧ t.status = w.status ∧
      (t.status ≠ 0x0B → t.outSeq = w.outSeq ∧ (i.writesCrc = true → t.crcOut = w.crcOut))

/-- The same command issued again changes nothing (20_memory.md R45). -/
def Obligations.RepeatedCommandChangesNothing : Prop :=
  ∀ (i : Instr) (s t : State), exec i s = .next t → exec i t = .next t

/-- The priority of outcomes: a reserved opcode first, with nothing computed; then DECODE's own order; CAPACITY
last, also over TIER1 and TIER2, with RESULT = NONE (60_exceptions.md R143). -/
def Obligations.OutcomePriority : Prop :=
  (∀ (s : State) (v : Byte), 0x04 ≤ v.toNat → issue v s = .next { s with cmd := v, status := 0x07 }) ∧
  (∀ (f r : ByteSeq),
    (unstuff (stripDelim f) = none → (decodeFrame f).2 = .tier1) ∧
    (unstuff (stripDelim f) = some r → r.length < 4 → (decodeFrame f).2 = .tier1) ∧
    (unstuff (stripDelim f) = some r → 4 ≤ r.length →
      be32Value (r.drop (r.length - 4)) ≠ crc32 (r.take (r.length - 4)) → (decodeFrame f).2 = .tier2)) ∧
  (∀ s : State, s.params.outCap < (decodeFrame s.inSeq).1.length →
    ∃ t, exec .decode s = .next t ∧ t.status = 0x0B ∧ statusResult t.status = 3 ∧ statusCmdErr t.status = 2)

/-- With OUT_CAP at least EncLenMax(IN_CAP), no command reports CAPACITY (00_scope.md R10). NOP reports nothing, so
STATUS stays as it was. -/
def Obligations.LargeOutCapRulesOutCapacity : Prop :=
  ∀ (i : Instr) (s : State), encLenMax s.params.inCap ≤ s.params.outCap → s.inSeq.length ≤ s.params.inCap →
    ∃ t, exec i s = .next t ∧ (i = .nop → t.status = s.status) ∧ (i ≠ .nop → t.status ≠ 0x0B)

/-! ## STATUS -/

/-- STATUS: every command but NOP writes a legal combination of the fields, with bits 7:4 zero; host writes are
ignored; reset leaves 0x03 (10_state.md R24). -/
def Obligations.StatusFields : Prop :=
  (∀ (i : Instr) (s : State), i ≠ .nop → ∃ t, exec i s = .next t ∧ statusReserved t.status = 0 ∧
    t.status = ((statusCmdErr t.status).setWidth 8 <<< 2) ||| (statusResult t.status).setWidth 8 ∧
    ((statusCmdErr t.status = 0 ∧ statusResult t.status ≠ 3) ∨
     (statusCmdErr t.status = 1 ∧ statusResult t.status = 3) ∨
     (statusCmdErr t.status = 2 ∧ statusResult t.status = 3))) ∧
  (∀ (s : State) (v : Byte) (rest : List HostAction), s.script = .writeStatus v :: rest →
    step s = .next { s with script := rest }) ∧
  State.reset.status = 0x03 ∧ statusResult 0x03 = 3 ∧ statusCmdErr 0x03 = 0

/-! ## Checksum -/

/-- Big-endian serialization (00_scope.md R13). -/
def Obligations.BigEndianSerialization : Prop :=
  (∀ c : Word, be32 c = [BitVec.ofNat 8 (c.toNat / 2 ^ 24), BitVec.ofNat 8 (c.toNat / 2 ^ 16),
    BitVec.ofNat 8 (c.toNat / 2 ^ 8), BitVec.ofNat 8 c.toNat]) ∧
  (∀ t0 t1 t2 t3 : Byte, (be32Value [t0, t1, t2, t3]).toNat =
    t0.toNat * 2 ^ 24 + t1.toNat * 2 ^ 16 + t2.toNat * 2 ^ 8 + t3.toNat) ∧
  (∀ c : Word, be32Value (be32 c) = c)

/-- The byte-serial table form computes CRC32, and its table has the entries the spec lists (41_checksum.md R92). -/
def Obligations.TableFormComputesCrc32 : Prop :=
  (∀ d : ByteSeq, crc32Serial d = crc32 d) ∧
  crcTable 0x00 = 0x00000000 ∧ crcTable 0x01 = 0x77073096 ∧ crcTable 0x02 = 0xEE0E612C ∧
  crcTable 0x80 = 0xEDB88320 ∧ crcTable 0xFF = 0x2D02EF8D

/-- A change of a single byte always changes CRC32 (41_checksum.md R93). -/
def Obligations.Crc32SeesEverySingleByteChange : Prop :=
  ∀ (p q : ByteSeq) (a b : Byte), a ≠ b → crc32 (p ++ a :: q) ≠ crc32 (p ++ b :: q)

/-- Two sequences of equal length that differ only inside 32 consecutive bits have different CRC32 values
(41_checksum.md R93; bits in the order of 20_memory.md R42). -/
def Obligations.Crc32SeesEveryBurst : Prop :=
  ∀ (d e : ByteSeq) (k : Nat), d.length = e.length → d ≠ e →
    (∀ n, n < k ∨ k + 32 ≤ n → bitAt d n = bitAt e n) → crc32 d ≠ crc32 e

/-! ## Stuffing and delimiter -/

/-- Stuff block by block: a run of fewer than 254 non-zero bytes ended by a zero, a full block with something after
it, and the last block, with nothing after a final full block (42_stuffing.md R100). -/
def Obligations.StuffBlockByBlock : Prop :=
  (∀ d rest : ByteSeq, (0x00 : Byte) ∉ d → d.length < 254 →
    stuff (d ++ 0x00 :: rest) = BitVec.ofNat 8 (d.length + 1) :: d ++ stuff rest) ∧
  (∀ d rest : ByteSeq, (0x00 : Byte) ∉ d → d.length = 254 → rest ≠ [] →
    stuff (d ++ rest) = 0xFF :: d ++ stuff rest) ∧
  (∀ d : ByteSeq, (0x00 : Byte) ∉ d → d.length ≤ 254 →
    stuff d = BitVec.ofNat 8 (d.length + 1) :: d)

/-- The properties of Stuff: no zero, length bounds, and the round trip (42_stuffing.md R102). -/
def Obligations.StuffProperties : Prop :=
  (∀ d : ByteSeq, (0x00 : Byte) ∉ stuff d) ∧
  (∀ d : ByteSeq, 1 ≤ (stuff d).length) ∧ stuff [] = [0x01] ∧
  (∀ d : ByteSeq, 1 ≤ d.length →
    d.length + 1 ≤ (stuff d).length ∧ (stuff d).length ≤ d.length + (d.length + 253) / 254) ∧
  (∀ d : ByteSeq, 1 ≤ d.length → (0x00 : Byte) ∉ d → (stuff d).length = d.length + (d.length + 253) / 254) ∧
  (∀ d : ByteSeq, unstuff (stuff d) = some d)

/-- A body is structurally valid exactly when it is a sequence of one or more blocks, and it then decodes to what its
blocks say (30_encoding.md R67). -/
def Obligations.ValidBodiesAreBlocks : Prop :=
  ∀ b r : ByteSeq, unstuff b = some r ↔
    ∃ blocks : List ByteSeq, blocks ≠ [] ∧ (∀ d ∈ blocks, blockOk d = true) ∧
      b = bodyBytes blocks ∧ r = bodyData blocks

/-- Unstuff fails exactly on M1 to M4; a full last block, and a final 01 after a full block, are accepted; DECODE
cannot tell M1 from an empty unstuffed result (42_stuffing.md R104). -/
def Obligations.MalformedBodies : Prop :=
  (∀ b : ByteSeq, unstuff b = none ↔
    MalformedEmpty b ∨ MalformedCode b ∨ MalformedRun b ∨ MalformedData b) ∧
  (∀ d : ByteSeq, d.length = 254 → (0x00 : Byte) ∉ d →
    unstuff (0xFF :: d) = some d ∧ unstuff (0xFF :: d ++ [0x01]) = some d) ∧
  (∀ f : ByteSeq, MalformedEmpty (stripDelim f) ∨ unstuff (stripDelim f) = some [] →
    decodeFrame f = (tier1 f, .tier1))

/-- An unstuffed result is shorter than its body (42_stuffing.md R105 item 1). -/
def Obligations.UnstuffShortens : Prop :=
  ∀ b r : ByteSeq, unstuff b = some r → r.length + 1 ≤ b.length

/-- The byte-serial unstuffer computes Unstuff (42_stuffing.md R106). -/
def Obligations.SerialUnstuffAgrees : Prop :=
  ∀ b : ByteSeq, unstuffSerial b = unstuff b

/-- StripDelim removes one final zero and nothing else (42_stuffing.md R107). -/
def Obligations.StripDelimTakesOneFinalZero : Prop :=
  stripDelim [] = [] ∧
  ∀ (f : ByteSeq) (x : Byte), stripDelim (f ++ [x]) = if x = 0x00 then f else f ++ [x]

/-- A frame has exactly one zero, its final byte, and the same body with or without it (42_stuffing.md R108). -/
def Obligations.FrameHasOneZeroAtItsEnd : Prop :=
  ∀ p : ByteSeq,
    (encodeFrame p).count 0x00 = 1 ∧ (encodeFrame p).getLast? = some 0x00 ∧
    stripDelim (encodeFrame p) = stuff (p ++ be32 (crc32 p)) ∧
    stripDelim (stuff (p ++ be32 (crc32 p))) = stuff (p ++ be32 (crc32 p))

/-! ## Frame codec -/

/-- Decode by its steps, on the body's unstuffed result cut into payload and 4-byte trailer (43_frame_codec.md R122). -/
def Obligations.DecodeBySteps : Prop :=
  ∀ f : ByteSeq,
    (unstuff (stripDelim f) = none → decodeFrame f = (tier1 f, .tier1)) ∧
    (∀ r, unstuff (stripDelim f) = some r → r.length < 4 → decodeFrame f = (tier1 f, .tier1)) ∧
    (∀ payload t0 t1 t2 t3, unstuff (stripDelim f) = some (payload ++ [t0, t1, t2, t3]) →
      be32Value [t0, t1, t2, t3] = crc32 payload → decodeFrame f = (payload, .ok)) ∧
    (∀ payload t0 t1 t2 t3, unstuff (stripDelim f) = some (payload ++ [t0, t1, t2, t3]) →
      be32Value [t0, t1, t2, t3] ≠ crc32 payload →
      decodeFrame f = (tier2 (payload ++ [t0, t1, t2, t3]), .tier2))

/-- The tier-1 fallback: the whole input, its final zero included, with byte 1 set to 0x02 if there is one
(43_frame_codec.md R125). -/
def Obligations.TierOneReturnsTheInput : Prop :=
  (∀ f : ByteSeq, (decodeFrame f).2 = .tier1 →
    (decodeFrame f).1.length = f.length ∧
    (2 ≤ f.length → (decodeFrame f).1[1]? = some 0x02) ∧
    (∀ k, k ≠ 1 → (decodeFrame f).1[k]? = f[k]?)) ∧
  (∀ f : ByteSeq, f.length < 2 → decodeFrame f = (f, .tier1)) ∧
  (∀ f : ByteSeq, f[1]? = some 0x02 → (decodeFrame f).2 = .tier1 → (decodeFrame f).1 = f)

/-- The tier-2 fallback: the full unstuffed result, of at least 4 bytes, with byte 1 set to 0x03
(43_frame_codec.md R126). -/
def Obligations.TierTwoReturnsTheBody : Prop :=
  ∀ f : ByteSeq, (decodeFrame f).2 = .tier2 →
    ∃ r, unstuff (stripDelim f) = some r ∧ 4 ≤ r.length ∧
      (decodeFrame f).1.length = r.length ∧ (decodeFrame f).1[1]? = some 0x03 ∧
      ∀ k, k ≠ 1 → (decodeFrame f).1[k]? = r[k]?

/-- The lengths of Encode's and Decode's results (43_frame_codec.md R127). -/
def Obligations.FrameLengths : Prop :=
  (∀ p : ByteSeq, p.length + 6 ≤ (encodeFrame p).length ∧ (encodeFrame p).length ≤ encLenMax p.length) ∧
  (∀ p : ByteSeq, (0x00 : Byte) ∉ p ++ be32 (crc32 p) → (encodeFrame p).length = encLenMax p.length) ∧
  (∀ f : ByteSeq, (decodeFrame f).2 = .ok → (decodeFrame f).1.length + 5 ≤ f.length) ∧
  (∀ f : ByteSeq, (decodeFrame f).2 = .tier1 → (decodeFrame f).1.length = f.length) ∧
  (∀ f : ByteSeq, (decodeFrame f).2 = .tier2 → (decodeFrame f).1.length + 1 ≤ f.length) ∧
  (∀ s t : State, s.inSeq.length ≤ s.params.inCap → exec .decode s = .next t → t.status = 0x0B →
    s.params.outCap < s.params.inCap)

/-- The round trip, with and without the terminator, and by ENCODE, XFER, DECODE on the block
(43_frame_codec.md R129). -/
def Obligations.FrameRoundTrip : Prop :=
  (∀ p : ByteSeq, decodeFrame (encodeFrame p) = (p, .ok)) ∧
  (∀ p : ByteSeq, decodeFrame (stripDelim (encodeFrame p)) = (p, .ok)) ∧
  (∀ s : State, (encodeFrame s.inSeq).length ≤ s.params.outCap →
    (encodeFrame s.inSeq).length ≤ s.params.inCap →
    ∃ t, runFrom s [.writeCmd 0x01, .xfer, .writeCmd 0x02] = .next t ∧ t.outSeq = s.inSeq ∧ t.status = 0x00)

/-- A frame followed by anything, a second frame or a second terminator among it, takes the tier-1 path
(70_reset_and_hazards.md R165). -/
def Obligations.BytesAfterAFrameAreTierOne : Prop :=
  ∀ p x : ByteSeq, x ≠ [] →
    decodeFrame (encodeFrame p ++ x) = ((encodeFrame p ++ x).set 1 0x02, .tier1)

/-- OUT alone does not tell success from failure (43_frame_codec.md R130). -/
def Obligations.InBandSentinelIsAmbiguous : Prop :=
  ∃ f g : ByteSeq, (decodeFrame f).1 = (decodeFrame g).1 ∧
    (decodeFrame f).2 = .ok ∧ (decodeFrame g).2 = .tier1

/-! ## The host -/

/-- The host's actions: what each does, and when it is refused (40_command.md R87, with R30, R31 and R69). The model's
own: values read are appended to reads, and RESET leaves script and reads (log entry 4); XFER is one action (log
entry 10); the indexed read is an action (log entry 11). -/
def Obligations.HostActionTable : Prop :=
  ∀ (s : State) (a : HostAction) (rest : List HostAction), s.script = a :: rest →
    (∀ bs, a = .load bs → bs.length ≤ s.params.inCap → step s = .next { s with inSeq := bs, script := rest }) ∧
    (∀ bs, a = .load bs → s.params.inCap < bs.length →
      step s = .refused (.loadTooLong bs.length s.params.inCap)) ∧
    (∀ i v, a = .poke i v → i < s.inSeq.length →
      step s = .next { s with inSeq := s.inSeq.set i v, script := rest }) ∧
    (∀ i v, a = .poke i v → s.inSeq.length ≤ i → step s = .refused (.pokePastEnd i s.inSeq.length)) ∧
    (∀ v, a = .writeCmd v → step s = exec (decodeOp v) { s with cmd := v, script := rest }) ∧
    (∀ v, a = .writeStatus v → step s = .next { s with script := rest }) ∧
    (∀ c, a = .writeCrcOut c → step s = .next { s with script := rest }) ∧
    (a = .read .cmd → step s = .next { s with script := rest, reads := s.reads ++ [.cmd s.cmd] }) ∧
    (a = .read .status → step s = .next { s with script := rest, reads := s.reads ++ [.status s.status] }) ∧
    (a = .read .crcOut → step s = .next { s with script := rest, reads := s.reads ++ [.crcOut s.crcOut] }) ∧
    (a = .read .inSeq → step s = .next { s with script := rest, reads := s.reads ++ [.inSeq s.inSeq] }) ∧
    (a = .read .outSeq → step s = .next { s with script := rest, reads := s.reads ++ [.outSeq s.outSeq] }) ∧
    (∀ m i v, a = .readByte m i → s.byteAt m i = some v →
      step s = .next { s with script := rest, reads := s.reads ++ [.byteAt m i v] }) ∧
    (∀ m i, a = .readByte m i → s.byteAt m i = none →
      step s = .refused (.readPastEnd m i (s.space m).length)) ∧
    (a = .xfer → s.outSeq.length ≤ s.params.inCap →
      step s = .next { s with inSeq := s.outSeq, script := rest }) ∧
    (a = .xfer → s.params.inCap < s.outSeq.length →
      step s = .refused (.loadTooLong s.outSeq.length s.params.inCap)) ∧
    (a = .reset → step s = .next { s with
      cmd := 0x00, status := 0x03, crcOut := 0x00000000, inSeq := [], outSeq := [], script := rest })

/-- The machine never faults, and a step has no next state exactly when the host's action is one its table forbids
(60_exceptions.md R140). The model's own: a step without a pending action exists (log entry 3), and a forbidden action
is a refusal, no fault (log entry 12); XFER and the indexed read are actions (log entries 10, 11). -/
def Obligations.OnlyForbiddenActionsHaveNoStep : Prop :=
  ∀ s : State, (∀ f, step s ≠ .fault f) ∧ ((∃ r, step s = .refused r) ↔ s.nextActionRefused) ∧
    ((∃ t, step s = .next t) ↔ ¬ s.nextActionRefused)

/-- Without a pending host action the block holds its state (60_exceptions.md R152; that a step exists there is the
model's choice, log entry 3). -/
def Obligations.IdleBlockHoldsItsState : Prop :=
  ∀ s : State, s.script = [] → step s = .next s

/-- A step takes the oldest action, changes no capacity, and only adds to the values read (the order of actions is
20_memory.md R48, a run's actions and reads 70_reset_and_hazards.md R168). The model's own: the capacities are fixed
fields of State (log entry 1), the script is a list that steps consume (log entry 3), and so are the values read kept
(log entry 4). -/
def Obligations.StepTakesOneAction : Prop :=
  ∀ s t : State, step s = .next t →
    t.script = s.script.tail ∧ t.params = s.params ∧ ∃ new, t.reads = s.reads ++ new

/-- A script runs in order: its first part, then the rest from where that ended; a refused action ends the run
(20_memory.md R48; 70_reset_and_hazards.md R168). -/
def Obligations.ScriptsRunInOrder : Prop :=
  ∀ (s : State) (as bs : List HostAction),
    runFrom s (as ++ bs) =
      match runFrom s as with
      | .next t => runFrom t bs
      | .fault f => .fault f
      | .refused r => .refused r

/-- A run's observation: the final interface state and the script's own reads, one value for each READ, whatever was
read before the run; none when the run is stuck (70_reset_and_hazards.md R168; that the values read are kept in
State is the model's choice, log entry 4). -/
def Obligations.ObservationHoldsTheScriptsReads : Prop :=
  (∀ (s t : State) (as : List HostAction), runFrom s as = .next t →
    ∃ new, t.reads = s.reads ++ new ∧ new.length = (as.filter (·.isRead)).length ∧
      observeRun s as = some { cmd := t.cmd, status := t.status, crcOut := t.crcOut, inSeq := t.inSeq,
                               outSeq := t.outSeq, reads := new }) ∧
  (∀ (s : State) (as : List HostAction) (r : Refusal), runFrom s as = .refused r → observeRun s as = none)

/-- Lines of a host script name their actions, and a mnemonic and its hex form are the same command
(30_encoding.md R68). -/
def Obligations.ScriptLinesNameActions : Prop :=
  readLine ['L', 'O', 'A', 'D', ' ', 'A', 'A', ' ', 'B', 'B', ' ', ';', 'x'] = .action (.load [0xAA, 0xBB]) ∧
  readLine ['L', 'O', 'A', 'D'] = .action (.load []) ∧
  readLine ['P', 'O', 'K', 'E', ' ', '6', ',', ' ', '6', '7'] = .action (.poke 6 0x67) ∧
  readLine ['C', 'M', 'D', ' ', 'E', 'N', 'C', 'O', 'D', 'E'] =
    readLine ['C', 'M', 'D', ' ', '0', 'x', '0', '1'] ∧
  readLine ['C', 'M', 'D', ' ', '0', 'x', '7', 'E'] = .action (.writeCmd 0x7E) ∧
  readLine ['R', 'E', 'A', 'D', ' ', 'O', 'U', 'T'] = .action (.read .outSeq) ∧
  readLine ['R', 'E', 'S', 'E', 'T'] = .action .reset ∧ readLine ['X', 'F', 'E', 'R'] = .action .xfer

/-! ## Reset, invariant, instances -/

/-- Reset gives every interface register its reset value and performs no command; the state after reset holds those
values too (70_reset_and_hazards.md R160). The model's own: RESET leaves the capacities, the host's remaining actions
and the values read (log entry 4). -/
def Obligations.ResetValues : Prop :=
  (∀ (s : State) (rest : List HostAction), s.script = .reset :: rest →
    step s = .next { s with
      cmd := 0x00, status := 0x03, crcOut := 0x00000000, inSeq := [], outSeq := [], script := rest }) ∧
  State.reset.cmd = 0x00 ∧ State.reset.status = 0x03 ∧ State.reset.crcOut = 0x00000000 ∧
  State.reset.inSeq = [] ∧ State.reset.outSeq = []

/-- A command straight after reset acts on IN = [], at every capacity that holds its output
(70_reset_and_hazards.md R162). -/
def Obligations.CommandsAfterReset : Prop :=
  ∀ p : Params,
    (6 ≤ p.outCap → step ((State.resetWith p).withFetchWord 8 0x01) = .next { State.resetWith p with
      cmd := 0x01, status := 0x00, outSeq := [0x01, 0x01, 0x01, 0x01, 0x01, 0x00] }) ∧
    step ((State.resetWith p).withFetchWord 8 0x02) = .next { State.resetWith p with
      cmd := 0x02, status := 0x01 } ∧
    (4 ≤ p.outCap → step ((State.resetWith p).withFetchWord 8 0x03) = .next { State.resetWith p with
      cmd := 0x03, status := 0x00, outSeq := [0x00, 0x00, 0x00, 0x00] })

/-- The state after reset meets the invariant, at every pair of capacities (10_state.md R24, R26, R32). -/
def Obligations.ResetMeetsTheInvariant : Prop :=
  State.reset.Inv ∧ ∀ p : Params, (State.resetWith p).Inv

/-- Every step keeps the invariant: the buffers fit, STATUS is legal, and STATUS 0x03 means that no result has been
written since reset (10_state.md R24, R26). -/
def Obligations.StepKeepsTheInvariant : Prop :=
  ∀ s t : State, s.Inv → step s = .next t → t.Inv

/-- A step of one instance changes no other, and depends on no other (60_exceptions.md R150). -/
def Obligations.InstancesAreIndependent : Prop :=
  ∀ (k : Nat) (sys : System),
    (∀ sys', sys.stepAt k = .next sys' → sys'.length = sys.length ∧ ∀ j, j ≠ k → sys'[j]? = sys[j]?) ∧
    (∀ s t, sys[k]? = some s → step s = .next t → ∃ sys', sys.stepAt k = .next sys' ∧ sys'[k]? = some t)
end

