-- ==== Sys2Proof/Laws/State.lean ====
section
/-! SUPPORT. One lemma per field per register update, and per field of reset. -/

namespace Sys2Proof.Machine

@[simp] theorem State.setCmd_cmd (s : State) (v : Byte) : (s.setCmd v).cmd = v := rfl
@[simp] theorem State.setCmd_status (s : State) (v : Byte) : (s.setCmd v).status = s.status := rfl
@[simp] theorem State.setCmd_crcOut (s : State) (v : Byte) : (s.setCmd v).crcOut = s.crcOut := rfl
@[simp] theorem State.setCmd_inSeq (s : State) (v : Byte) : (s.setCmd v).inSeq = s.inSeq := rfl
@[simp] theorem State.setCmd_outSeq (s : State) (v : Byte) : (s.setCmd v).outSeq = s.outSeq := rfl
@[simp] theorem State.setCmd_params (s : State) (v : Byte) : (s.setCmd v).params = s.params := rfl
@[simp] theorem State.setCmd_script (s : State) (v : Byte) : (s.setCmd v).script = s.script := rfl
@[simp] theorem State.setCmd_reads (s : State) (v : Byte) : (s.setCmd v).reads = s.reads := rfl

@[simp] theorem State.setStatus_cmd (s : State) (v : Byte) : (s.setStatus v).cmd = s.cmd := rfl
@[simp] theorem State.setStatus_status (s : State) (v : Byte) : (s.setStatus v).status = v := rfl
@[simp] theorem State.setStatus_crcOut (s : State) (v : Byte) : (s.setStatus v).crcOut = s.crcOut := rfl
@[simp] theorem State.setStatus_inSeq (s : State) (v : Byte) : (s.setStatus v).inSeq = s.inSeq := rfl
@[simp] theorem State.setStatus_outSeq (s : State) (v : Byte) : (s.setStatus v).outSeq = s.outSeq := rfl
@[simp] theorem State.setStatus_params (s : State) (v : Byte) : (s.setStatus v).params = s.params := rfl
@[simp] theorem State.setStatus_script (s : State) (v : Byte) : (s.setStatus v).script = s.script := rfl
@[simp] theorem State.setStatus_reads (s : State) (v : Byte) : (s.setStatus v).reads = s.reads := rfl

@[simp] theorem State.setCrcOut_cmd (s : State) (c : Word) : (s.setCrcOut c).cmd = s.cmd := rfl
@[simp] theorem State.setCrcOut_status (s : State) (c : Word) : (s.setCrcOut c).status = s.status := rfl
@[simp] theorem State.setCrcOut_crcOut (s : State) (c : Word) : (s.setCrcOut c).crcOut = c := rfl
@[simp] theorem State.setCrcOut_inSeq (s : State) (c : Word) : (s.setCrcOut c).inSeq = s.inSeq := rfl
@[simp] theorem State.setCrcOut_outSeq (s : State) (c : Word) : (s.setCrcOut c).outSeq = s.outSeq := rfl
@[simp] theorem State.setCrcOut_params (s : State) (c : Word) : (s.setCrcOut c).params = s.params := rfl
@[simp] theorem State.setCrcOut_script (s : State) (c : Word) : (s.setCrcOut c).script = s.script := rfl
@[simp] theorem State.setCrcOut_reads (s : State) (c : Word) : (s.setCrcOut c).reads = s.reads := rfl

@[simp] theorem State.setIn_cmd (s : State) (q : ByteSeq) : (s.setIn q).cmd = s.cmd := rfl
@[simp] theorem State.setIn_status (s : State) (q : ByteSeq) : (s.setIn q).status = s.status := rfl
@[simp] theorem State.setIn_crcOut (s : State) (q : ByteSeq) : (s.setIn q).crcOut = s.crcOut := rfl
@[simp] theorem State.setIn_inSeq (s : State) (q : ByteSeq) : (s.setIn q).inSeq = q := rfl
@[simp] theorem State.setIn_outSeq (s : State) (q : ByteSeq) : (s.setIn q).outSeq = s.outSeq := rfl
@[simp] theorem State.setIn_params (s : State) (q : ByteSeq) : (s.setIn q).params = s.params := rfl
@[simp] theorem State.setIn_script (s : State) (q : ByteSeq) : (s.setIn q).script = s.script := rfl
@[simp] theorem State.setIn_reads (s : State) (q : ByteSeq) : (s.setIn q).reads = s.reads := rfl

@[simp] theorem State.setOut_cmd (s : State) (q : ByteSeq) : (s.setOut q).cmd = s.cmd := rfl
@[simp] theorem State.setOut_status (s : State) (q : ByteSeq) : (s.setOut q).status = s.status := rfl
@[simp] theorem State.setOut_crcOut (s : State) (q : ByteSeq) : (s.setOut q).crcOut = s.crcOut := rfl
@[simp] theorem State.setOut_inSeq (s : State) (q : ByteSeq) : (s.setOut q).inSeq = s.inSeq := rfl
@[simp] theorem State.setOut_outSeq (s : State) (q : ByteSeq) : (s.setOut q).outSeq = q := rfl
@[simp] theorem State.setOut_params (s : State) (q : ByteSeq) : (s.setOut q).params = s.params := rfl
@[simp] theorem State.setOut_script (s : State) (q : ByteSeq) : (s.setOut q).script = s.script := rfl
@[simp] theorem State.setOut_reads (s : State) (q : ByteSeq) : (s.setOut q).reads = s.reads := rfl

@[simp] theorem State.setScript_cmd (s : State) (as : List HostAction) : (s.setScript as).cmd = s.cmd := rfl
@[simp] theorem State.setScript_status (s : State) (as : List HostAction) : (s.setScript as).status = s.status := rfl
@[simp] theorem State.setScript_crcOut (s : State) (as : List HostAction) : (s.setScript as).crcOut = s.crcOut := rfl
@[simp] theorem State.setScript_inSeq (s : State) (as : List HostAction) : (s.setScript as).inSeq = s.inSeq := rfl
@[simp] theorem State.setScript_outSeq (s : State) (as : List HostAction) : (s.setScript as).outSeq = s.outSeq := rfl
@[simp] theorem State.setScript_params (s : State) (as : List HostAction) : (s.setScript as).params = s.params := rfl
@[simp] theorem State.setScript_script (s : State) (as : List HostAction) : (s.setScript as).script = as := rfl
@[simp] theorem State.setScript_reads (s : State) (as : List HostAction) : (s.setScript as).reads = s.reads := rfl

@[simp] theorem State.addRead_cmd (s : State) (v : ReadValue) : (s.addRead v).cmd = s.cmd := rfl
@[simp] theorem State.addRead_status (s : State) (v : ReadValue) : (s.addRead v).status = s.status := rfl
@[simp] theorem State.addRead_crcOut (s : State) (v : ReadValue) : (s.addRead v).crcOut = s.crcOut := rfl
@[simp] theorem State.addRead_inSeq (s : State) (v : ReadValue) : (s.addRead v).inSeq = s.inSeq := rfl
@[simp] theorem State.addRead_outSeq (s : State) (v : ReadValue) : (s.addRead v).outSeq = s.outSeq := rfl
@[simp] theorem State.addRead_params (s : State) (v : ReadValue) : (s.addRead v).params = s.params := rfl
@[simp] theorem State.addRead_script (s : State) (v : ReadValue) : (s.addRead v).script = s.script := rfl
@[simp] theorem State.addRead_reads (s : State) (v : ReadValue) : (s.addRead v).reads = s.reads ++ [v] := rfl

@[simp] theorem State.setReads_cmd (s : State) (vs : List ReadValue) : (s.setReads vs).cmd = s.cmd := rfl
@[simp] theorem State.setReads_status (s : State) (vs : List ReadValue) : (s.setReads vs).status = s.status := rfl
@[simp] theorem State.setReads_crcOut (s : State) (vs : List ReadValue) : (s.setReads vs).crcOut = s.crcOut := rfl
@[simp] theorem State.setReads_inSeq (s : State) (vs : List ReadValue) : (s.setReads vs).inSeq = s.inSeq := rfl
@[simp] theorem State.setReads_outSeq (s : State) (vs : List ReadValue) : (s.setReads vs).outSeq = s.outSeq := rfl
@[simp] theorem State.setReads_params (s : State) (vs : List ReadValue) : (s.setReads vs).params = s.params := rfl
@[simp] theorem State.setReads_script (s : State) (vs : List ReadValue) : (s.setReads vs).script = s.script := rfl
@[simp] theorem State.setReads_reads (s : State) (vs : List ReadValue) : (s.setReads vs).reads = vs := rfl

@[simp] theorem applyReset_cmd (s : State) : (applyReset s).cmd = 0x00 := rfl
@[simp] theorem applyReset_status (s : State) : (applyReset s).status = 0x03 := rfl
@[simp] theorem applyReset_crcOut (s : State) : (applyReset s).crcOut = 0x00000000 := rfl
@[simp] theorem applyReset_inSeq (s : State) : (applyReset s).inSeq = [] := rfl
@[simp] theorem applyReset_outSeq (s : State) : (applyReset s).outSeq = [] := rfl
@[simp] theorem applyReset_params (s : State) : (applyReset s).params = s.params := rfl
@[simp] theorem applyReset_script (s : State) : (applyReset s).script = s.script := rfl
@[simp] theorem applyReset_reads (s : State) : (applyReset s).reads = s.reads := rfl

@[simp] theorem State.resetWith_cmd (p : Params) : (State.resetWith p).cmd = 0x00 := rfl
@[simp] theorem State.resetWith_status (p : Params) : (State.resetWith p).status = 0x03 := rfl
@[simp] theorem State.resetWith_crcOut (p : Params) : (State.resetWith p).crcOut = 0x00000000 := rfl
@[simp] theorem State.resetWith_inSeq (p : Params) : (State.resetWith p).inSeq = [] := rfl
@[simp] theorem State.resetWith_outSeq (p : Params) : (State.resetWith p).outSeq = [] := rfl
@[simp] theorem State.resetWith_params (p : Params) : (State.resetWith p).params = p := rfl
@[simp] theorem State.resetWith_script (p : Params) : (State.resetWith p).script = [] := rfl
@[simp] theorem State.resetWith_reads (p : Params) : (State.resetWith p).reads = [] := rfl

@[simp] theorem State.writeCrc_cmd (s : State) (c : Option Word) : (s.writeCrc c).cmd = s.cmd := by
  cases c <;> rfl
@[simp] theorem State.writeCrc_status (s : State) (c : Option Word) : (s.writeCrc c).status = s.status := by
  cases c <;> rfl
@[simp] theorem State.writeCrc_inSeq (s : State) (c : Option Word) : (s.writeCrc c).inSeq = s.inSeq := by
  cases c <;> rfl
@[simp] theorem State.writeCrc_outSeq (s : State) (c : Option Word) : (s.writeCrc c).outSeq = s.outSeq := by
  cases c <;> rfl
@[simp] theorem State.writeCrc_params (s : State) (c : Option Word) : (s.writeCrc c).params = s.params := by
  cases c <;> rfl
@[simp] theorem State.writeCrc_script (s : State) (c : Option Word) : (s.writeCrc c).script = s.script := by
  cases c <;> rfl
@[simp] theorem State.writeCrc_reads (s : State) (c : Option Word) : (s.writeCrc c).reads = s.reads := by
  cases c <;> rfl
@[simp] theorem State.writeCrc_crcOut (s : State) (c : Option Word) : (s.writeCrc c).crcOut = c.getD s.crcOut := by
  cases c <;> rfl

@[simp] theorem State.operand_eq (s : State) : s.operand = s.inSeq := rfl

@[simp] theorem State.space_inSeq (s : State) : s.space .inSeq = s.inSeq := rfl

@[simp] theorem State.space_outSeq (s : State) : s.space .outSeq = s.outSeq := rfl

@[simp] theorem State.setReads_reads_self (s : State) : s.setReads s.reads = s := rfl

@[simp] theorem State.setReads_setReads (s : State) (us vs : List ReadValue) :
    (s.setReads us).setReads vs = s.setReads vs := rfl

@[simp] theorem State.byteAt_setReads (s : State) (vs : List ReadValue) (m : Space) (i : Nat) :
    (s.setReads vs).byteAt m i = s.byteAt m i := by
  cases m <;> rfl

theorem State.byteAt_eq_none_iff (s : State) (m : Space) (i : Nat) :
    s.byteAt m i = none ↔ (s.space m).length ≤ i := by
  simp [State.byteAt]

end Sys2Proof.Machine
end

