-- ==== Sys2Proof/Laws/Ops.lean ====
section
/-! SUPPORT. What each shared operation can do, and that each keeps the buffers within their capacities. -/

namespace Sys2Proof.Machine

@[simp] theorem statusDone_ok : statusDone .ok = 0x00 := rfl
@[simp] theorem statusDone_tier1 : statusDone .tier1 = 0x01 := rfl
@[simp] theorem statusDone_tier2 : statusDone .tier2 = 0x02 := rfl
@[simp] theorem statusBadOpcode_eq : statusBadOpcode = 0x07 := rfl
@[simp] theorem statusCapacity_eq : statusCapacity = 0x0B := rfl

/-- The STATUS of a performed command is 0, 1 or 2. -/
theorem statusDone_cases (t : Tag) : statusDone t = 0x00 ∨ statusDone t = 0x01 ∨ statusDone t = 0x02 := by
  cases t <;> simp

theorem be32_length (c : Word) : (be32 c).length = 4 := rfl

/-- `MemRead` has a value exactly inside the sequence (00_scope.md R14). -/
theorem memRead_isSome_iff (q : ByteSeq) (addr n : Nat) : (memRead q addr n).isSome ↔ addr + n ≤ q.length := by
  unfold memRead
  split <;> simp [*]

/-- Reading a whole sequence gives it (20_memory.md R44). -/
theorem memRead_whole (q : ByteSeq) : memRead q 0 q.length = some q := by
  simp [memRead, slice]

theorem slice_prefix (q : ByteSeq) (n : Nat) : slice q 0 n = q.take n := rfl

theorem slice_suffix (q : ByteSeq) (n : Nat) : slice q n q.length = q.drop n := by simp [slice]

/-- Everything `complete` can do. -/
theorem complete_cases (q : ByteSeq) (t : Tag) (c : Option Word) (s : State) :
    (s.params.outCap < q.length ∧ complete q t c s = s.setStatus 0x0B) ∨
    (q.length ≤ s.params.outCap ∧ complete q t c s = ((s.setOut q).setStatus (statusDone t)).writeCrc c) := by
  unfold complete
  split
  · exact .inl ⟨‹_›, by simp⟩
  · exact .inr ⟨by omega, rfl⟩

theorem complete_of_fits {q : ByteSeq} {s : State} (t : Tag) (c : Option Word) (h : q.length ≤ s.params.outCap) :
    complete q t c s = ((s.setOut q).setStatus (statusDone t)).writeCrc c := by
  simp [complete, Nat.not_lt.mpr h]

theorem complete_of_overflow {q : ByteSeq} {s : State} (t : Tag) (c : Option Word) (h : s.params.outCap < q.length) :
    complete q t c s = s.setStatus 0x0B := by
  simp [complete, h]

theorem complete_wf {s : State} (h : Memory.wf s) (q : ByteSeq) (t : Tag) (c : Option Word) :
    Memory.wf (complete q t c s) := by
  obtain ⟨_, e⟩ | ⟨hq, e⟩ := complete_cases q t c s
  · rw [e]
    exact h
  · simpa [e, Memory.wf, hq] using h.1

/-- Everything LOAD can do. -/
theorem hostLoad_cases (bs : ByteSeq) (s : State) :
    (bs.length ≤ s.params.inCap ∧ hostLoad bs s = .next (s.setIn bs)) ∨
    (s.params.inCap < bs.length ∧ hostLoad bs s = .refused (.loadTooLong bs.length s.params.inCap)) := by
  unfold hostLoad
  split
  · exact .inl ⟨‹_›, rfl⟩
  · exact .inr ⟨by omega, rfl⟩

/-- Everything POKE can do. -/
theorem hostPoke_cases (i : Nat) (v : Byte) (s : State) :
    (i < s.inSeq.length ∧ hostPoke i v s = .next (s.setIn (s.inSeq.set i v))) ∨
    (s.inSeq.length ≤ i ∧ hostPoke i v s = .refused (.pokePastEnd i s.inSeq.length)) := by
  unfold hostPoke
  split
  · exact .inl ⟨‹_›, rfl⟩
  · exact .inr ⟨by omega, rfl⟩

/-- Everything a read of one byte can do. -/
theorem hostReadByte_cases (m : Space) (i : Nat) (s : State) :
    (∃ v, s.byteAt m i = some v ∧ hostReadByte m i s = .next (s.addRead (.byteAt m i v))) ∨
    ((s.space m).length ≤ i ∧ hostReadByte m i s = .refused (.readPastEnd m i (s.space m).length)) := by
  unfold hostReadByte
  cases h : s.byteAt m i with
  | some v => exact .inl ⟨v, rfl, rfl⟩
  | none => exact .inr ⟨(s.byteAt_eq_none_iff m i).mp h, rfl⟩

theorem setIn_wf {s : State} (h : Memory.wf s) {q : ByteSeq} (hq : q.length ≤ s.params.inCap) :
    Memory.wf (s.setIn q) := ⟨hq, h.2⟩

theorem setOut_wf {s : State} (h : Memory.wf s) {q : ByteSeq} (hq : q.length ≤ s.params.outCap) :
    Memory.wf (s.setOut q) := ⟨h.1, hq⟩

theorem hostLoad_wf {s t : State} (h : Memory.wf s) {bs : ByteSeq} (e : hostLoad bs s = .next t) :
    Memory.wf t := by
  obtain ⟨hb, e'⟩ | ⟨_, e'⟩ := hostLoad_cases bs s <;> rw [e'] at e <;> cases e
  exact setIn_wf h hb

theorem hostPoke_wf {s t : State} (h : Memory.wf s) {i : Nat} {v : Byte} (e : hostPoke i v s = .next t) :
    Memory.wf t := by
  obtain ⟨_, e'⟩ | ⟨_, e'⟩ := hostPoke_cases i v s <;> rw [e'] at e <;> cases e
  exact setIn_wf h (by simpa using h.1)

theorem applyReset_wf (s : State) : Memory.wf (applyReset s) := by simp [Memory.wf]

theorem reset_wf : Memory.wf State.reset := by decide

end Sys2Proof.Machine
end

