-- ==== Sys2Proof/Laws/Commands.lean ====
section
/-! SUPPORT. What a command can do: one lemma over all commands, cited instead of unfolding exec. -/

namespace Sys2Proof.Machine

/-- The checksum a computing command offers to CRC_OUT. -/
def offeredCrc (i : Instr) (s : State) : Option Word :=
  if i.writesCrc then some (crc32 s.inSeq) else none

/-- The result tag of a command's output. -/
def outputTag (i : Instr) (s : State) : Tag :=
  if i = .decode then (decodeFrame s.inSeq).2 else .ok

theorem exec_nop (s : State) : exec .nop s = .next s := rfl

theorem exec_reserved {i : Instr} (h : i.reserved = true) (s : State) : exec i s = .next (reservedCmd s) := by
  cases i <;> simp [Instr.reserved] at h <;> rfl

theorem exec_computing {i : Instr} (h : i.computing = true) (s : State) :
    exec i s = .next (complete (i.output s.inSeq) (outputTag i s) (offeredCrc i s) s) := by
  cases i <;> simp [Instr.computing] at h <;> rfl

/-- A command is NOP, reserved or computing. -/
theorem Instr.kind_cases (i : Instr) :
    i = .nop ∨ i.reserved = true ∨ i.computing = true := by
  cases i <;> simp [Instr.reserved, Instr.computing]

/-- Everything a command can do. -/
theorem exec_cases {i : Instr} {s t : State} (h : exec i s = .next t) :
    (i = .nop ∧ t = s) ∨
    (i.reserved = true ∧ t = s.setStatus 0x07) ∨
    (i.computing = true ∧ t = complete (i.output s.inSeq) (outputTag i s) (offeredCrc i s) s) := by
  obtain rfl | hi | hi := Instr.kind_cases i
  · rw [exec_nop] at h
    cases h
    exact .inl ⟨rfl, rfl⟩
  · rw [exec_reserved hi] at h
    cases h
    exact .inr (.inl ⟨hi, rfl⟩)
  · rw [exec_computing hi] at h
    cases h
    exact .inr (.inr ⟨hi, rfl⟩)

@[simp] theorem legalStatus_ok : legalStatus 0#8 = true := rfl
@[simp] theorem legalStatus_tier1 : legalStatus 1#8 = true := rfl
@[simp] theorem legalStatus_tier2 : legalStatus 2#8 = true := rfl
@[simp] theorem legalStatus_reset : legalStatus 3#8 = true := rfl
@[simp] theorem legalStatus_badOpcode : legalStatus 7#8 = true := rfl
@[simp] theorem legalStatus_capacity : legalStatus 11#8 = true := rfl

theorem exec_wf {i : Instr} {s t : State} (hs : Memory.wf s) (h : exec i s = .next t) : Memory.wf t := by
  obtain ⟨_, rfl⟩ | ⟨_, rfl⟩ | ⟨_, rfl⟩ := exec_cases h
  · exact hs
  · exact hs
  · exact complete_wf hs _ _ _

end Sys2Proof.Machine
end

