-- ==== Sys2Proof/Laws/Decode.lean ====
section
/-! SUPPORT. The opcode table's rows: every byte lies in exactly one, and the decoder answers that one's command. -/

namespace Sys2Proof

@[simp] theorem decode_one (v : Byte) : decode [v] = .command (decodeOp v) := rfl

/-- The commands of the ten rows, a reserved one holding `v`. -/
def rowCommands (v : Byte) : List Instr :=
  [.nop, .encode, .decode, .crc32, .reserved04 v, .reserved08 v, .reserved10 v, .reserved20 v, .reserved40 v, .reserved80 v]

/-- No two rows overlap, and together they cover every byte. -/
theorem rows_partition_the_bytes :
    ∀ v : Byte, ((rowCommands v).filter fun i => i.row.hits v).length = 1 := by decide +kernel

/-- The decoder answers a command whose row the byte hits. -/
theorem decodeOp_row_hits : ∀ v : Byte, (decodeOp v).row.hits v = true := by decide +kernel

/-- The decoder keeps the whole opcode. -/
theorem opcodeOf_decodeOp : ∀ v : Byte, opcodeOf (decodeOp v) = v := by decide +kernel

end Sys2Proof
end

