-- ==== Sys2Proof/Laws/PerInstr.lean ====
section
/-! SUPPORT. Facts stated of each command by itself. -/

/-- A well-formed command's own opcode lies in its row of the table. -/
def Sys2Proof.Laws.RowFit.Statement (i : Sys2Proof.Instr) : Prop :=
  i.wellFormed = true → i.row.hits (Sys2Proof.opcodeOf i) = true

namespace Sys2Proof.Laws.RowFit

theorem nop : Statement .nop := fun _ => rfl
theorem encode : Statement .encode := fun _ => rfl
theorem decode : Statement .decode := fun _ => rfl
theorem crc32 : Statement .crc32 := fun _ => rfl
theorem reserved04 (op : Byte) : Statement (.reserved04 op) := id
theorem reserved08 (op : Byte) : Statement (.reserved08 op) := id
theorem reserved10 (op : Byte) : Statement (.reserved10 op) := id
theorem reserved20 (op : Byte) : Statement (.reserved20 op) := id
theorem reserved40 (op : Byte) : Statement (.reserved40 op) := id
theorem reserved80 (op : Byte) : Statement (.reserved80 op) := id

end Sys2Proof.Laws.RowFit
end

