-- ==== Sys2Proof/Laws/Step.lean ====
section
/-! SUPPORT. What a step can do: one lemma over all host actions, cited instead of unfolding step. -/

namespace Sys2Proof.Machine

theorem step_idle {s : State} (h : s.script = []) : step s = .next s := by
  simp [step, hostTurn, h]

theorem step_action {s : State} {a : HostAction} {rest : List HostAction} (h : s.script = a :: rest) :
    step s = perform a (s.setScript rest) := by
  simp [step, hostTurn, h]

/-- Everything a host action that has a step can do. -/
theorem perform_cases {a : HostAction} {s t : State} (h : perform a s = .next t) :
    (∃ bs, bs.length ≤ s.params.inCap ∧ (a = .load bs ∨ (a = .xfer ∧ bs = s.outSeq)) ∧ t = s.setIn bs) ∨
    (∃ i v, a = .poke i v ∧ i < s.inSeq.length ∧ t = s.setIn (s.inSeq.set i v)) ∨
    (∃ v, a = .writeCmd v ∧ exec (decodeOp v) (s.setCmd v) = .next t) ∨
    (((∃ v, a = .writeStatus v) ∨ ∃ c, a = .writeCrcOut c) ∧ t = s) ∨
    (∃ x, ((∃ r, a = .read r) ∨ ∃ m i, a = .readByte m i) ∧ t = s.addRead x) ∨
    (a = .reset ∧ t = applyReset s) := by
  cases a with
  | load bs =>
    obtain ⟨hb, e⟩ | ⟨_, e⟩ := hostLoad_cases bs s <;> simp only [perform, e] at h <;> cases h
    exact .inl ⟨bs, hb, .inl rfl, rfl⟩
  | poke i v =>
    obtain ⟨hb, e⟩ | ⟨_, e⟩ := hostPoke_cases i v s <;> simp only [perform, e] at h <;> cases h
    exact .inr (.inl ⟨i, v, rfl, hb, rfl⟩)
  | writeCmd v => exact .inr (.inr (.inl ⟨v, rfl, h⟩))
  | writeStatus v =>
    cases h
    exact .inr (.inr (.inr (.inl ⟨.inl ⟨v, rfl⟩, rfl⟩)))
  | writeCrcOut c =>
    cases h
    exact .inr (.inr (.inr (.inl ⟨.inr ⟨c, rfl⟩, rfl⟩)))
  | read r =>
    cases h
    exact .inr (.inr (.inr (.inr (.inl ⟨_, .inl ⟨r, rfl⟩, rfl⟩))))
  | readByte m i =>
    obtain ⟨v, _, e⟩ | ⟨_, e⟩ := hostReadByte_cases m i s <;> simp only [perform, e] at h <;> cases h
    exact .inr (.inr (.inr (.inr (.inl ⟨_, .inr ⟨m, i, rfl⟩, rfl⟩))))
  | reset =>
    cases h
    exact .inr (.inr (.inr (.inr (.inr ⟨rfl, rfl⟩))))
  | xfer =>
    obtain ⟨hb, e⟩ | ⟨_, e⟩ := hostLoad_cases s.outSeq s <;> simp only [perform, e] at h <;> cases h
    exact .inl ⟨_, hb, .inr ⟨rfl, rfl⟩, rfl⟩

/-- Everything a step can do. -/
theorem step_cases {s t : State} (h : step s = .next t) :
    (s.script = [] ∧ t = s) ∨ ∃ a rest, s.script = a :: rest ∧ perform a (s.setScript rest) = .next t := by
  cases e : s.script with
  | nil =>
    rw [step_idle e] at h
    cases h
    exact .inl ⟨rfl, rfl⟩
  | cons a rest => exact .inr ⟨a, rest, rfl, by rwa [step_action e] at h⟩

theorem perform_wf {a : HostAction} {s t : State} (hs : Memory.wf s) (h : perform a s = .next t) :
    Memory.wf t := by
  obtain ⟨bs, hb, _, rfl⟩ | ⟨i, v, _, _, rfl⟩ | ⟨v, _, e⟩ | ⟨_, rfl⟩ | ⟨x, _, rfl⟩ | ⟨_, rfl⟩ := perform_cases h
  · exact setIn_wf hs hb
  · exact setIn_wf hs (by simpa using hs.1)
  · exact exec_wf (s := s.setCmd v) hs e
  · exact hs
  · exact hs
  · exact applyReset_wf s

end Sys2Proof.Machine
end

