-- ==== Sys2Proof/Laws/Run.lean ====
section
/-! SUPPORT. A run taken apart: no action looks at the actions after it or at the values read before it, so a run is its first action, then the rest. -/

namespace Sys2Proof.Machine

/-- An answer with its next state, if it has one, changed by `f`. -/
def mapNext (f : State → State) : Answer → Answer
  | .next t    => .next (f t)
  | .fault r   => .fault r
  | .refused r => .refused r

/-- A command does not look at the host's remaining actions. -/
theorem exec_setScript (i : Instr) (s : State) (as : List HostAction) :
    exec i (s.setScript as) = mapNext (·.setScript as) (exec i s) := by
  obtain rfl | h | h := Instr.kind_cases i
  · rfl
  · rw [exec_reserved h, exec_reserved h]
    rfl
  · rw [exec_computing h, exec_computing h]
    by_cases hq : s.params.outCap < (i.output s.inSeq).length
    · simp only [State.setScript_inSeq]
      rw [complete_of_overflow _ _ hq, complete_of_overflow (s := s.setScript as) _ _ hq]
      rfl
    · simp only [State.setScript_inSeq]
      rw [complete_of_fits _ _ (Nat.not_lt.mp hq), complete_of_fits (s := s.setScript as) _ _ (Nat.not_lt.mp hq)]
      unfold offeredCrc
      cases i.writesCrc <;> rfl

/-- A host action does not look at the actions after it. -/
theorem perform_setScript (a : HostAction) (s : State) (as : List HostAction) :
    perform a (s.setScript as) = mapNext (·.setScript as) (perform a s) := by
  have load (bs : ByteSeq) : hostLoad bs (s.setScript as) = mapNext (·.setScript as) (hostLoad bs s) := by
    by_cases h : bs.length ≤ s.params.inCap
    · rw [show hostLoad bs s = .next (s.setIn bs) from if_pos h]
      exact if_pos h
    · rw [show hostLoad bs s = .refused (.loadTooLong bs.length s.params.inCap) from if_neg h]
      exact if_neg h
  cases a with
  | load bs => exact load bs
  | poke i v =>
    by_cases h : i < s.inSeq.length
    · rw [show perform (.poke i v) s = .next (s.setIn (s.inSeq.set i v)) from if_pos h]
      exact if_pos h
    · rw [show perform (.poke i v) s = .refused (.pokePastEnd i s.inSeq.length) from if_neg h]
      exact if_neg h
  | writeCmd v => exact exec_setScript (decodeOp v) (s.setCmd v) as
  | writeStatus v => rfl
  | writeCrcOut c => rfl
  | read r => cases r <;> rfl
  | readByte m i =>
    have h : (s.setScript as).byteAt m i = s.byteAt m i := by cases m <;> rfl
    simp only [perform, hostReadByte, h]
    cases s.byteAt m i <;> cases m <;> rfl
  | reset => rfl
  | xfer => exact load s.outSeq

@[simp] theorem runFrom_nil (s : State) : runFrom s [] = .next (s.setScript []) := rfl

/-- One step more of the host's run, in the machine's own names. -/
theorem core_run_succ (n : Nat) (s : State) :
    Sys2Proof.core.run (n + 1) s =
      match step s with
      | .next t => Sys2Proof.core.run n t
      | .fault f => .fault f
      | .refused r => .refused r := by
  rw [Host.Core.run.eq_2 Sys2Proof.core s n]
  have h : Sys2Proof.core.step s = step s := rfl
  rw [h]
  cases step s <;> rfl

/-- A run is its first action, then the rest; a refused action ends it. -/
theorem runFrom_cons (s : State) (a : HostAction) (as : List HostAction) :
    runFrom s (a :: as) =
      match perform a s with
      | .next t => runFrom t as
      | .fault f => .fault f
      | .refused r => .refused r := by
  have h : step (s.setScript (a :: as)) = mapNext (·.setScript as) (perform a s) := by
    rw [step_action (a := a) (rest := as) rfl]
    exact perform_setScript a s as
  have e : runFrom s (a :: as) = Sys2Proof.core.run (as.length + 1) (s.setScript (a :: as)) := rfl
  rw [e, core_run_succ, h]
  cases perform a s <;> rfl

/-- The values that an action reads: one for a read, none otherwise. -/
def valuesRead (a : HostAction) (s : State) : List ReadValue :=
  match a with
  | .read r       => [s.regValue r]
  | .readByte m i => ((s.byteAt m i).map (.byteAt m i)).toList
  | _             => []

/-- An action that has a step reads one value if it is a read, and none otherwise. -/
theorem valuesRead_length {a : HostAction} {s t : State} (h : perform a s = .next t) :
    (valuesRead a s).length = if a.isRead then 1 else 0 := by
  cases a with
  | readByte m i =>
    obtain ⟨v, e, _⟩ | ⟨_, e⟩ := hostReadByte_cases m i s
    · simp [valuesRead, HostAction.isRead, e]
    · simp only [perform, e] at h
      cases h
  | _ => rfl

/-- A command does not look at the values read. -/
theorem exec_setReads (i : Instr) (s : State) (vs : List ReadValue) :
    exec i (s.setReads vs) = mapNext (·.setReads vs) (exec i s) := by
  obtain rfl | h | h := Instr.kind_cases i
  · rfl
  · rw [exec_reserved h, exec_reserved h]
    rfl
  · rw [exec_computing h, exec_computing h, State.setReads_inSeq]
    obtain ⟨hq, e⟩ | ⟨hq, e⟩ := complete_cases (i.output s.inSeq) (outputTag i s) (offeredCrc i s) s
    · rw [e, complete_of_overflow (s := s.setReads vs) _ _ hq]
      rfl
    · rw [e, complete_of_fits (s := s.setReads vs) _ _ hq]
      unfold offeredCrc
      cases i.writesCrc <;> rfl

/-- A host action does not look at the values read before it, and adds its own to them. -/
theorem perform_setReads (a : HostAction) (s : State) (vs : List ReadValue) :
    perform a (s.setReads vs) = mapNext (·.setReads (vs ++ valuesRead a s)) (perform a s) := by
  have load (bs : ByteSeq) : hostLoad bs (s.setReads vs) = mapNext (·.setReads (vs ++ [])) (hostLoad bs s) := by
    rw [List.append_nil]
    by_cases h : bs.length ≤ s.params.inCap
    · rw [show hostLoad bs s = .next (s.setIn bs) from if_pos h]
      exact if_pos h
    · rw [show hostLoad bs s = .refused (.loadTooLong bs.length s.params.inCap) from if_neg h]
      exact if_neg h
  cases a with
  | load bs => exact load bs
  | poke i v =>
    rw [show valuesRead (.poke i v) s = [] from rfl, List.append_nil]
    by_cases h : i < s.inSeq.length
    · rw [show perform (.poke i v) s = .next (s.setIn (s.inSeq.set i v)) from if_pos h]
      exact if_pos h
    · rw [show perform (.poke i v) s = .refused (.pokePastEnd i s.inSeq.length) from if_neg h]
      exact if_neg h
  | writeCmd v =>
    rw [show valuesRead (.writeCmd v) s = [] from rfl, List.append_nil]
    exact exec_setReads (decodeOp v) (s.setCmd v) vs
  | writeStatus v => simp [perform, valuesRead, mapNext]
  | writeCrcOut c => simp [perform, valuesRead, mapNext]
  | read r => cases r <;> rfl
  | readByte m i =>
    simp only [perform, hostReadByte, valuesRead, State.byteAt_setReads]
    cases s.byteAt m i <;> cases m <;> rfl
  | reset =>
    rw [show valuesRead .reset s = [] from rfl, List.append_nil]
    rfl
  | xfer => exact load s.outSeq

end Sys2Proof.Machine
end

