-- ==== Sys2Proof/Laws/Stuffing.lean ====
section
/-! SUPPORT. The equations of the stuffer's and the unstuffer's loops, one per case, so that proofs need not unfold them. -/

namespace Sys2Proof.Machine

@[simp] theorem emitBlock_length (blk : ByteSeq) : (emitBlock blk).length = blk.length + 1 := rfl

@[simp] theorem stuffFrom_nil (blk : ByteSeq) : stuffFrom blk [] = emitBlock blk := by
  rw [stuffFrom]

@[simp] theorem stuffFrom_zero (blk rest : ByteSeq) :
    stuffFrom blk (delimiter :: rest) = emitBlock blk ++ stuffFrom [] rest := by
  rw [stuffFrom]
  simp

theorem stuffFrom_nonzero {blk : ByteSeq} {x : Byte} (rest : ByteSeq) (hx : x ≠ delimiter)
    (hb : blk.length + 1 ≠ maxBlock) : stuffFrom blk (x :: rest) = stuffFrom (blk ++ [x]) rest := by
  rw [stuffFrom]
  simp [hx, hb]

theorem stuffFrom_full_last {blk : ByteSeq} {x : Byte} (hx : x ≠ delimiter) (hb : blk.length + 1 = maxBlock) :
    stuffFrom blk [x] = emitBlock (blk ++ [x]) := by
  rw [stuffFrom]
  simp [hx, hb]

theorem stuffFrom_full {blk : ByteSeq} {x : Byte} {rest : ByteSeq} (hx : x ≠ delimiter)
    (hb : blk.length + 1 = maxBlock) (hr : rest ≠ []) :
    stuffFrom blk (x :: rest) = emitBlock (blk ++ [x]) ++ stuffFrom [] rest := by
  rw [stuffFrom]
  simp [hx, hb, hr]

@[simp] theorem unstuffLoop_nil (n : Nat) : unstuffLoop n [] = some [] := by
  cases n <;> rfl

theorem unstuffLoop_cons (n : Nat) (c : Byte) (tl : ByteSeq) :
    unstuffLoop (n + 1) (c :: tl) =
      if c = delimiter then none
      else if c.toNat > tl.length + 1 then none
      else if delimiter ∈ tl.take (c.toNat - 1) then none
      else (unstuffLoop n (tl.drop (c.toNat - 1))).map fun r =>
        tl.take (c.toNat - 1) ++ impliedZero c (tl.drop (c.toNat - 1)) ++ r := rfl

/-- As many passes as bytes are enough: more give the same. -/
theorem unstuffLoop_fuel (n : Nat) : ∀ (k : Nat) (b : ByteSeq), b.length ≤ n → n ≤ k →
    unstuffLoop k b = unstuffLoop n b := by
  induction n with
  | zero =>
    intro k b hb _
    have : b = [] := List.length_eq_zero_iff.mp (by omega)
    simp [this]
  | succ n ih =>
    intro k b hb hk
    cases b with
    | nil => simp
    | cons c tl =>
      obtain ⟨k, rfl⟩ : ∃ j, k = j + 1 := ⟨k - 1, by omega⟩
      rw [unstuffLoop_cons, unstuffLoop_cons, ih k (tl.drop (c.toNat - 1)) (by simp at hb ⊢; omega) (by omega)]

@[simp] theorem unstuff_nil : unstuff [] = none := rfl

theorem unstuff_cons (c : Byte) (tl : ByteSeq) : unstuff (c :: tl) = unstuffLoop (tl.length + 1) (c :: tl) := by
  simp [unstuff]

@[simp] theorem stripDelim_nil : stripDelim [] = [] := rfl

end Sys2Proof.Machine
end

