-- ==== Sys2Proof/Tests/Slice0.lean ====
section
/-! SUPPORT. Tests: expected results are those of the opcode table, of 95_test_vectors.md and of the rules' own examples. Then, for each statement with hypotheses, a witness that meets them. -/

/- One theorem after another: side by side, the many kernel evaluations ask for a thread each. -/
set_option Elab.async false

namespace Sys2Proof.Tests
open Sys2Proof Sys2Proof.Machine

/-- A state with the given capacities, IN and script, otherwise as reset leaves it. -/
def st (inCap outCap : Nat) (q : ByteSeq) (as : List HostAction) : State :=
  { State.resetWith { inCap := inCap, outCap := outCap } with inSeq := q, script := as }

/-- The next state of an answer. -/
def nextOf : Answer → Option State
  | .next t    => some t
  | .fault _   => none
  | .refused _ => none

/-- The refusal of an answer. -/
def refusalOf : Answer → Option Refusal
  | .next _    => none
  | .fault _   => none
  | .refused r => some r

/-- `AA BB`, its frame, and the frame with its last trailer byte flipped (95_test_vectors.md W2). -/
def payloadW2 : ByteSeq := [0xAA, 0xBB]
def frameW2 : ByteSeq := [0x07, 0xAA, 0xBB, 0x49, 0x82, 0x2C, 0x98, 0x00]
def flippedW2 : ByteSeq := [0x07, 0xAA, 0xBB, 0x49, 0x82, 0x2C, 0x67, 0x00]

/-- 254 bytes of `0x07` (95_test_vectors.md section 2.2). -/
def fullBlock : ByteSeq := List.replicate 254 0x07

/-! ## WellFormed: each check refuses an opcode outside its row -/

theorem test_wellFormed_refuses_reserved04 : (Instr.reserved04 0x08).wellFormed = false := by decide
theorem test_wellFormed_refuses_reserved08 : (Instr.reserved08 0x07).wellFormed = false := by decide
theorem test_wellFormed_refuses_reserved10 : (Instr.reserved10 0x20).wellFormed = false := by decide
theorem test_wellFormed_refuses_reserved20 : (Instr.reserved20 0x1F).wellFormed = false := by decide
theorem test_wellFormed_refuses_reserved40 : (Instr.reserved40 0x80).wellFormed = false := by decide
theorem test_wellFormed_refuses_reserved80 : (Instr.reserved80 0x7F).wellFormed = false := by decide

/-! ## Decode: words written out from the table's match and mask -/

theorem test_decode_nop : decode [0b00000000] = .command .nop := by decide
theorem test_decode_encode : decode [0b00000001] = .command .encode := by decide
theorem test_decode_decode : decode [0b00000010] = .command .decode := by decide
theorem test_decode_crc32 : decode [0b00000011] = .command .crc32 := by decide
theorem test_decode_reserved04 : decode [0b00000110] = .command (.reserved04 0x06) := by decide
theorem test_decode_reserved08 : decode [0b00001000] = .command (.reserved08 0x08) := by decide
theorem test_decode_reserved10 : decode [0b00011111] = .command (.reserved10 0x1F) := by decide
theorem test_decode_reserved20 : decode [0b00100001] = .command (.reserved20 0x21) := by decide
theorem test_decode_reserved40 : decode [0b01111110] = .command (.reserved40 0x7E) := by decide
theorem test_decode_reserved80 : decode [0b11111111] = .command (.reserved80 0xFF) := by decide
theorem test_decode_rejects_no_byte : decode [] = .rejected .noWord := by decide
theorem test_decode_rejects_two_bytes : decode [0x01, 0x02] = .rejected (.notOneByte 2) := by decide

/-! ## Functions (95_test_vectors.md section 2) -/

theorem test_crc32_check_value :
    crc32 [0x31, 0x32, 0x33, 0x34, 0x35, 0x36, 0x37, 0x38, 0x39] = 0xCBF43926 := by decide +kernel
theorem test_crc32_serial_one_zero : crc32Serial [0x00] = 0xD202EF8D := by decide
theorem test_stuff_zero_inside : stuff [0x11, 0x22, 0x00, 0x33] = [0x03, 0x11, 0x22, 0x02, 0x33] := by decide
theorem test_stuff_full_block : stuff fullBlock = 0xFF :: fullBlock := by decide +kernel
theorem test_stuff_full_block_and_zero :
    stuff (fullBlock ++ [0x00]) = 0xFF :: fullBlock ++ [0x01, 0x01] := by decide +kernel
theorem test_unstuff_run_too_long : unstuff [0x03, 0x11] = none := by decide
theorem test_unstuff_zero_code : unstuff [0x02, 0x11, 0x00] = none := by decide
theorem test_unstuff_implied_zero : unstuff [0x02, 0x11, 0x01] = some [0x11, 0x00] := by decide
theorem test_unstuff_extra_code_after_full_block :
    unstuff (0xFF :: fullBlock ++ [0x01]) = some fullBlock := by decide +kernel
theorem test_unstuffSerial_zero_inside : unstuffSerial [0x03, 0x11, 0x00] = none := by decide
theorem test_stripDelim_one_zero : stripDelim [0x00, 0x00] = [0x00] := by decide
theorem test_decodeFrame_short_result :
    decodeFrame [0x04, 0x11, 0x22, 0x33, 0x00] = ([0x04, 0x02, 0x22, 0x33, 0x00], .tier1) := by decide
theorem test_readLine_poke :
    readLine ['P', 'O', 'K', 'E', ' ', '1', '0', ',', ' ', '6', 'F'] = .action (.poke 10 0x6F) := by decide

/-! ## Commands, one step each (95_test_vectors.md section 2.7) -/

theorem test_step_nop : nextOf (step ((st 1024 1100 payloadW2 []).withFetchWord 8 0x00)) =
    some (st 1024 1100 payloadW2 []) := by decide
theorem test_step_encode : nextOf (step ((st 1024 8 payloadW2 []).withFetchWord 8 0x01)) =
    some { st 1024 8 payloadW2 [] with
      cmd := 0x01, status := 0x00, crcOut := 0x49822C98, outSeq := frameW2 } := by decide +kernel
theorem test_step_encode_capacity : nextOf (step ((st 1024 7 payloadW2 []).withFetchWord 8 0x01)) =
    some { st 1024 7 payloadW2 [] with cmd := 0x01, status := 0x0B } := by decide +kernel
theorem test_step_decode_tier2 : nextOf (step ((st 1024 6 flippedW2 []).withFetchWord 8 0x02)) =
    some { st 1024 6 flippedW2 [] with
      cmd := 0x02, status := 0x02, outSeq := [0xAA, 0x03, 0x49, 0x82, 0x2C, 0x67] } := by decide +kernel
theorem test_step_decode_tier1 : nextOf (step ((st 1024 1100 [0x05, 0x11, 0x22, 0x00] []).withFetchWord 8 0x02)) =
    some { st 1024 1100 [0x05, 0x11, 0x22, 0x00] [] with
      cmd := 0x02, status := 0x01, outSeq := [0x05, 0x02, 0x22, 0x00] } := by decide
theorem test_step_crc32 : nextOf (step ((st 1024 4 payloadW2 []).withFetchWord 8 0x03)) =
    some { st 1024 4 payloadW2 [] with
      cmd := 0x03, status := 0x00, crcOut := 0x49822C98, outSeq := [0x49, 0x82, 0x2C, 0x98] } := by decide +kernel
theorem test_step_crc32_capacity : nextOf (step ((st 1024 3 payloadW2 []).withFetchWord 8 0x03)) =
    some { st 1024 3 payloadW2 [] with cmd := 0x03, status := 0x0B } := by decide
theorem test_step_reserved04 : nextOf (step ((st 1024 1100 payloadW2 []).withFetchWord 8 0x04)) =
    some { st 1024 1100 payloadW2 [] with cmd := 0x04, status := 0x07 } := by decide
theorem test_step_reserved08 : nextOf (step ((st 1024 1100 [] []).withFetchWord 8 0x0F)) =
    some { st 1024 1100 [] [] with cmd := 0x0F, status := 0x07 } := by decide
theorem test_step_reserved10 : nextOf (step ((st 1024 1100 [] []).withFetchWord 8 0x10)) =
    some { st 1024 1100 [] [] with cmd := 0x10, status := 0x07 } := by decide
theorem test_step_reserved20 : nextOf (step ((st 1024 1100 [] []).withFetchWord 8 0x3F)) =
    some { st 1024 1100 [] [] with cmd := 0x3F, status := 0x07 } := by decide
theorem test_step_reserved40 : nextOf (step ((st 1024 1100 payloadW2 []).withFetchWord 8 0x7E)) =
    some { st 1024 1100 payloadW2 [] with cmd := 0x7E, status := 0x07 } := by decide
theorem test_step_reserved80 : nextOf (step ((st 1024 1100 payloadW2 []).withFetchWord 8 0xFF)) =
    some { st 1024 1100 payloadW2 [] with cmd := 0xFF, status := 0x07 } := by decide

/-! ## Host actions (40_command.md R87; 10_state.md R31) -/

theorem test_load_at_capacity : (nextOf (step (st 2 9 [] [.load payloadW2]))).map (·.inSeq) =
    some payloadW2 := by decide
theorem test_load_above_capacity : refusalOf (step (st 1 9 [] [.load payloadW2])) =
    some (.loadTooLong 2 1) := by decide
theorem test_poke_past_end : refusalOf (step (st 9 9 payloadW2 [.poke 2 0x67])) =
    some (.pokePastEnd 2 2) := by decide
theorem test_readByte_past_end : refusalOf (step (st 9 9 payloadW2 [.readByte .outSeq 0])) =
    some (.readPastEnd .outSeq 0 0) := by decide
theorem test_reset_keeps_host_records :
    nextOf (step { st 9 9 payloadW2 [.reset, .xfer] with cmd := 0x7E, status := 0x07, reads := [.cmd 0x00] }) =
      some { st 9 9 [] [.xfer] with reads := [.cmd 0x00] } := by decide

/-! ## Witnesses: the hypotheses of each statement, met by concrete values at the edges of their ranges -/

theorem witness_DecodeInvertsEncode :
    (Instr.reserved04 0x04).wellFormed = true ∧ (Instr.reserved04 0x07).wellFormed = true ∧
    (Instr.reserved80 0x80).wellFormed = true ∧ (Instr.reserved80 0xFF).wellFormed = true := by decide

/-- For OpcodeMap, DispatchByOpcode, ReservedReportsBadOpcode and OutcomePriority. -/
theorem witness_reserved_opcodes : 0x04 ≤ (0x04 : Byte).toNat ∧ 0x04 ≤ (0xFF : Byte).toNat := by decide

theorem witness_StepRunsDecodedCommand :
    (st 9 9 [] [.writeCmd 0xFF]).script = .writeCmd 0xFF :: [] ∧ decode [0xFF] = .command (.reserved80 0xFF) := by
  decide

theorem witness_FetchWordRunsNext : 255 < 256 ∧ decodeTableWord 8 255 = some (.reserved80 0xFF) := by decide

theorem witness_NopChangesOnlyCmd : (st 9 9 [] [.writeCmd 0x00, .reset]).script = .writeCmd 0x00 :: [.reset] := by
  decide

theorem witness_ReservedReportsBadOpcode :
    0x04 ≤ (0x04 : Byte).toNat ∧ (st 9 9 [] [.writeCmd 0x04]).script = .writeCmd 0x04 :: [] := by decide

theorem witness_Crc32CommandResult :
    4 ≤ (st 9 4 [] []).params.outCap ∧ (st 9 3 [] []).params.outCap < 4 := by decide

theorem witness_EncodeCommandResult :
    (encodeFrame (st 9 8 payloadW2 []).inSeq).length ≤ (st 9 8 payloadW2 []).params.outCap ∧
    (st 9 7 payloadW2 []).params.outCap < (encodeFrame (st 9 7 payloadW2 []).inSeq).length := by decide +kernel

theorem witness_DecodeCommandResult :
    decodeFrame (st 9 6 flippedW2 []).inSeq = ([0xAA, 0x03, 0x49, 0x82, 0x2C, 0x67], .tier2) ∧
    [0xAA, 0x03, 0x49, 0x82, 0x2C, 0x67].length ≤ (st 9 6 flippedW2 []).params.outCap ∧
    (st 9 5 flippedW2 []).params.outCap < [0xAA, 0x03, 0x49, 0x82, 0x2C, 0x67].length := by decide +kernel

/-- For ComputingCommandsComplete, CommandFrame and ResultsDependOnInAlone: both sides of the capacity. -/
theorem witness_ComputingCommandsComplete :
    Instr.crc32.computing = true ∧ (st 9 3 [] []).params.outCap < (Instr.crc32.output (st 9 3 [] []).inSeq).length ∧
    (Instr.crc32.output (st 9 4 [] []).inSeq).length ≤ (st 9 4 [] []).params.outCap := by decide

theorem witness_EveryCommandCompletesAndKeepsIn :
    unstuff (stripDelim (st 9 2 [0x05, 0x11] []).inSeq) = none ∧ 2 ≤ (st 9 2 [0x05, 0x11] []).inSeq.length ∧
    (st 9 2 [0x05, 0x11] []).inSeq.length ≤ (st 9 2 [0x05, 0x11] []).params.outCap := by decide

theorem witness_CommandFrame :
    (nextOf (exec .encode (st 9 8 payloadW2 []))).isSome ∧ (nextOf (exec .encode (st 9 7 payloadW2 []))).isSome ∧
    (nextOf (exec .nop (st 9 7 payloadW2 []))).isSome ∧ Instr.decode.writesCrc = false ∧
    (Instr.reserved04 0x04).computing = false := by decide

theorem witness_ResultsDependOnInAlone :
    Instr.encode.computing = true ∧ (st 9 8 payloadW2 []).inSeq = (st 20 8 payloadW2 [.reset]).inSeq ∧
    (st 9 8 payloadW2 []).params.outCap = (st 20 8 payloadW2 [.reset]).params.outCap ∧
    Instr.encode.writesCrc = true := by decide

theorem witness_RepeatedCommandChangesNothing : (nextOf (exec .decode (st 9 9 frameW2 []))).isSome := by
  decide

theorem witness_OutcomePriority :
    unstuff (stripDelim [0x05, 0x11]) = none ∧
    unstuff (stripDelim [0x04, 0x11, 0x22, 0x33, 0x00]) = some [0x11, 0x22, 0x33] ∧
    unstuff (stripDelim flippedW2) = some [0xAA, 0xBB, 0x49, 0x82, 0x2C, 0x67] ∧
    be32Value [0x49, 0x82, 0x2C, 0x67] ≠ crc32 payloadW2 ∧
    (st 9 5 flippedW2 []).params.outCap < (decodeFrame (st 9 5 flippedW2 []).inSeq).1.length := by decide +kernel

theorem witness_LargeOutCapRulesOutCapacity :
    encLenMax (st 2 8 payloadW2 []).params.inCap ≤ (st 2 8 payloadW2 []).params.outCap ∧
    (st 2 8 payloadW2 []).inSeq.length ≤ (st 2 8 payloadW2 []).params.inCap ∧ Instr.encode ≠ .nop := by decide

theorem witness_StatusFields :
    Instr.decode ≠ .nop ∧ (st 9 9 [] [.writeStatus 0xFF]).script = .writeStatus 0xFF :: [] := by decide

theorem witness_Crc32SeesEverySingleByteChange : (0xBB : Byte) ≠ 0xBA := by decide

theorem witness_Crc32SeesEveryBurst :
    payloadW2.length = [0xAB, 0xBB].length ∧ payloadW2 ≠ [0xAB, 0xBB] ∧
    ∀ n, n < 0 ∨ 0 + 32 ≤ n → bitAt payloadW2 n = bitAt [0xAB, 0xBB] n := by
  refine ⟨rfl, by decide, fun n h => ?_⟩
  have : 2 ≤ n / 8 := by omega
  simp [bitAt, payloadW2, List.getD_eq_getElem?_getD, List.getElem?_eq_none, this]

theorem witness_StuffBlockByBlock :
    (0x00 : Byte) ∉ List.replicate 253 (0x07 : Byte) ∧ (List.replicate 253 (0x07 : Byte)).length < 254 ∧
    (0x00 : Byte) ∉ fullBlock ∧ fullBlock.length = 254 ∧ [(0x00 : Byte)] ≠ [] ∧ fullBlock.length ≤ 254 := by
  decide +kernel

theorem witness_StuffProperties : 1 ≤ [(0x07 : Byte)].length ∧ (0x00 : Byte) ∉ [(0x07 : Byte)] := by decide

theorem witness_MalformedBodies :
    fullBlock.length = 254 ∧ (0x00 : Byte) ∉ fullBlock ∧ stripDelim [0x00] = [] ∧
    unstuff (stripDelim [0x01, 0x00]) = some [] := by decide +kernel

theorem witness_UnstuffShortens : unstuff [0x01] = some [] ∧ unstuff [0x01, 0x01] = some [0x00] := by decide

theorem witness_DecodeBySteps :
    unstuff (stripDelim []) = none ∧
    unstuff (stripDelim [0x04, 0x11, 0x22, 0x33, 0x00]) = some [0x11, 0x22, 0x33] ∧
    unstuff (stripDelim frameW2) = some (payloadW2 ++ [0x49, 0x82, 0x2C, 0x98]) ∧
    be32Value [0x49, 0x82, 0x2C, 0x98] = crc32 payloadW2 ∧
    unstuff (stripDelim [0x05, 0x01, 0x01, 0x01, 0x01]) = some ([] ++ [0x01, 0x01, 0x01, 0x01]) ∧
    be32Value [0x01, 0x01, 0x01, 0x01] ≠ crc32 [] := by decide +kernel

theorem witness_TierOneReturnsTheInput :
    (decodeFrame [0x05, 0x11]).2 = .tier1 ∧ [(0x05 : Byte)].length < 2 ∧
    [(0x05 : Byte), 0x02][1]? = some 0x02 ∧ (decodeFrame [0x05, 0x02]).2 = .tier1 := by decide

theorem witness_TierTwoReturnsTheBody : (decodeFrame [0x05, 0x01, 0x01, 0x01, 0x01]).2 = .tier2 := by decide

theorem witness_FrameLengths :
    (0x00 : Byte) ∉ payloadW2 ++ be32 (crc32 payloadW2) ∧ (decodeFrame frameW2).2 = .ok ∧
    (decodeFrame [0x05, 0x11]).2 = .tier1 ∧ (decodeFrame flippedW2).2 = .tier2 ∧
    (st 8 5 flippedW2 []).inSeq.length ≤ (st 8 5 flippedW2 []).params.inCap ∧
    (nextOf (exec .decode (st 8 5 flippedW2 []))).map (·.status) = some 0x0B := by decide +kernel

theorem witness_FrameRoundTrip :
    (encodeFrame (st 8 8 payloadW2 []).inSeq).length ≤ (st 8 8 payloadW2 []).params.outCap ∧
    (encodeFrame (st 8 8 payloadW2 []).inSeq).length ≤ (st 8 8 payloadW2 []).params.inCap := by decide +kernel

theorem witness_BytesAfterAFrameAreTierOne : [(0x00 : Byte)] ≠ [] := by decide

/-- One witness for each clause of HostActionTable, at the edge of its range. -/
theorem witness_HostActionTable :
    payloadW2.length ≤ (st 2 9 [] [.load payloadW2]).params.inCap ∧
    (st 1 9 [] [.load payloadW2]).params.inCap < payloadW2.length ∧
    1 < (st 9 9 payloadW2 [.poke 1 0x00]).inSeq.length ∧ (st 9 9 payloadW2 [.poke 2 0x00]).inSeq.length ≤ 2 ∧
    (st 9 9 payloadW2 [.readByte .inSeq 1]).byteAt .inSeq 1 = some 0xBB ∧
    (st 9 9 payloadW2 [.readByte .inSeq 2]).byteAt .inSeq 2 = none ∧
    ({ st 8 9 [] [.xfer] with outSeq := frameW2 }).outSeq.length ≤ 8 ∧
    7 < ({ st 7 9 [] [.xfer] with outSeq := frameW2 }).outSeq.length ∧
    (st 9 9 [] [.writeCrcOut 0xFFFFFFFF]).script = .writeCrcOut 0xFFFFFFFF :: [] ∧
    (st 9 9 [] [.read .cmd]).script = .read .cmd :: [] ∧ (st 9 9 [] [.read .status]).script = .read .status :: [] ∧
    (st 9 9 [] [.read .crcOut]).script = .read .crcOut :: [] ∧ (st 9 9 [] [.read .inSeq]).script = .read .inSeq :: [] ∧
    (st 9 9 [] [.read .outSeq]).script = .read .outSeq :: [] ∧ (st 9 9 [] [.reset]).script = .reset :: [] ∧
    (st 9 9 [] [.writeCmd 0x7E]).script = .writeCmd 0x7E :: [] := by decide

theorem witness_IdleBlockHoldsItsState : (st 9 9 [] []).script = [] := by decide

theorem witness_StepTakesOneAction : (nextOf (step (st 9 9 payloadW2 [.read .inSeq]))).isSome := by decide

/-- Earlier reads are no part of a run's observation (70_reset_and_hazards.md R168). -/
theorem test_observation_holds_own_reads_only :
    (observeRun { st 9 9 [] [] with reads := [.cmd 0x00] } [.read .status]).map (·.reads) = some [.status 0x03] := by
  decide

theorem witness_ObservationHoldsTheScriptsReads :
    (nextOf (runFrom { st 9 9 payloadW2 [] with reads := [.cmd 0x00] } [.read .inSeq, .readByte .inSeq 1])).isSome ∧
    refusalOf (runFrom (st 9 9 payloadW2 []) [.read .cmd, .readByte .inSeq 2]) = some (.readPastEnd .inSeq 2 2) := by
  decide

theorem witness_ResetValues : (st 9 9 payloadW2 [.reset]).script = .reset :: [] := by decide

theorem witness_CommandsAfterReset :
    6 ≤ (Params.mk 0 6).outCap ∧ 4 ≤ (Params.mk 0 4).outCap := by decide

theorem witness_StepKeepsTheInvariant :
    (st 2 8 payloadW2 [.writeCmd 0x01]).Inv ∧ (nextOf (step (st 2 8 payloadW2 [.writeCmd 0x01]))).isSome := by
  decide

theorem witness_InstancesAreIndependent :
    (nextOf (step (st 9 9 payloadW2 [.writeCmd 0x03]))).isSome ∧
    [st 9 9 payloadW2 [.writeCmd 0x03], st 9 9 [] []][0]? = some (st 9 9 payloadW2 [.writeCmd 0x03]) ∧
    (1 : Nat) ≠ 0 := by decide

end Sys2Proof.Tests
end

/-! ## Big-endian words -/

namespace Sys2Proof.Machine

/-- A byte cut out of a word, as a quotient of the word's value. -/
theorem extractLsb'_eq_ofNat_div (c : Word) (k : Nat) :
    c.extractLsb' k 8 = BitVec.ofNat 8 (c.toNat / 2 ^ k) := by
  rw [← Nat.shiftRight_eq_div_pow]
  rfl

/-- `be32` gives the base-256 digits of the word, most significant first (00_scope.md R13). -/
theorem be32_eq_ofNat (c : Word) :
    be32 c = [BitVec.ofNat 8 (c.toNat / 2 ^ 24), BitVec.ofNat 8 (c.toNat / 2 ^ 16),
      BitVec.ofNat 8 (c.toNat / 2 ^ 8), BitVec.ofNat 8 c.toNat] := by
  simp only [be32, extractLsb'_eq_ofNat_div, Nat.pow_zero, Nat.div_one]

/-- A byte moved up to one of the four places of a word loses no bit. -/
theorem toNat_setWidth_shiftLeft (t : Byte) {k : Nat} (hk : k ≤ 24) :
    (t.setWidth 32 <<< k).toNat = t.toNat * 2 ^ k := by
  have hlt : t.toNat * 2 ^ k < 2 ^ 32 := calc
    t.toNat * 2 ^ k < 2 ^ 8 * 2 ^ k := Nat.mul_lt_mul_of_pos_right t.isLt (Nat.two_pow_pos k)
    _ = 2 ^ (8 + k) := (Nat.pow_add 2 8 k).symm
    _ ≤ 2 ^ 32 := Nat.pow_le_pow_right (by decide) (by omega)
  rw [BitVec.toNat_shiftLeft, BitVec.toNat_setWidth_of_le (by decide), Nat.shiftLeft_eq, Nat.mod_eq_of_lt hlt]

/-- `be32_value` of four bytes is their big-endian value; the sum does not wrap around (00_scope.md R13). -/
theorem be32Value_toNat (t0 t1 t2 t3 : Byte) :
    (be32Value [t0, t1, t2, t3]).toNat =
      t0.toNat * 2 ^ 24 + t1.toNat * 2 ^ 16 + t2.toNat * 2 ^ 8 + t3.toNat := by
  have e : be32Value [t0, t1, t2, t3] =
      t0.setWidth 32 <<< 24 + t1.setWidth 32 <<< 16 + t2.setWidth 32 <<< 8 + t3.setWidth 32 := rfl
  have h0 := t0.isLt
  have h1 := t1.isLt
  have h2 := t2.isLt
  have h3 := t3.isLt
  rw [e, BitVec.toNat_add, BitVec.toNat_add, BitVec.toNat_add, toNat_setWidth_shiftLeft t0 (by decide),
    toNat_setWidth_shiftLeft t1 (by decide), toNat_setWidth_shiftLeft t2 (by decide),
    BitVec.toNat_setWidth_of_le (by decide)]
  omega

/-- A word is the sum of its base-256 digits (00_scope.md R13). -/
@[simp] theorem be32Value_be32 (c : Word) : be32Value (be32 c) = c := by
  apply BitVec.eq_of_toNat_eq
  rw [be32_eq_ofNat, be32Value_toNat]
  have hc := c.isLt
  simp only [BitVec.toNat_ofNat]
  omega

/-- Settles O21: the bytes and the value by the two lemmas on `toNat`, the round trip from both. -/
theorem bigEndianSerialization : Obligations.BigEndianSerialization :=
  ⟨be32_eq_ofNat, be32Value_toNat, be32Value_be32⟩

end Sys2Proof.Machine

/-! ## The lengths of what commands put in OUT -/

namespace Sys2Proof.Machine

/-- What stuffing adds to `n` bytes, those of the pending block among them: one code byte, and one more for each
full block before the last (42_stuffing.md R102). -/
theorem stuffFrom_length_le (d : ByteSeq) : ∀ blk : ByteSeq, blk.length < maxBlock →
    (stuffFrom blk d).length ≤ blk.length + d.length + 1 + (blk.length + d.length - 1) / 254 := by
  induction d with
  | nil =>
    intro blk _
    simp
  | cons x rest ih =>
    intro blk hblk
    have ih_new := ih [] (by decide)
    by_cases hx : x = delimiter
    · subst hx
      simp only [stuffFrom_zero, List.length_append, emitBlock_length, List.length_cons, List.length_nil] at ih_new ⊢
      omega
    by_cases hfull : blk.length + 1 = maxBlock
    · by_cases hr : rest = []
      · subst hr
        simp [stuffFrom_full_last hx hfull]
      · have hpos := List.length_pos_iff.mpr hr
        simp only [maxBlock] at hfull
        simp only [stuffFrom_full hx hfull hr, List.length_append, emitBlock_length, List.length_cons,
          List.length_nil] at ih_new ⊢
        omega
    · have ih_more := ih (blk ++ [x]) (by simp; omega)
      simp only [stuffFrom_nonzero rest hx hfull, List.length_append, List.length_cons, List.length_nil] at ih_more ⊢
      omega

theorem stuff_length_le (d : ByteSeq) : (stuff d).length ≤ d.length + 1 + (d.length - 1) / 254 := by
  simpa [stuff] using stuffFrom_length_le d [] (by decide)

/-- A frame is no longer than EncLenMax of its payload's length (43_frame_codec.md R127). -/
theorem encodeFrame_length_le (p : ByteSeq) : (encodeFrame p).length ≤ encLenMax p.length := by
  have h := stuff_length_le (p ++ trailer p)
  simp only [encodeFrame, encLenMax, trailer, List.length_append, be32_length, List.length_singleton] at h ⊢
  omega

theorem encLenMax_mono {m n : Nat} (h : m ≤ n) : encLenMax m ≤ encLenMax n := by
  unfold encLenMax
  omega

/-- An implied zero takes the place of a code byte that follows, so it needs one (42_stuffing.md R103). -/
theorem impliedZero_length_le (c : Byte) (more : ByteSeq) :
    (impliedZero c more).length ≤ 1 ∧ (more = [] → (impliedZero c more).length = 0) := by
  unfold impliedZero
  split
  next h => exact ⟨le_rfl, fun hmore => absurd hmore h.2⟩
  next => simp

/-- Each block gives its data and at most one zero for the code byte of the block after it, so the loop's result is
shorter than what it reads (42_stuffing.md R105). -/
theorem unstuffLoop_length_le (n : Nat) : ∀ {b r : ByteSeq}, unstuffLoop n b = some r →
    r.length ≤ b.length - 1 := by
  induction n with
  | zero =>
    intro b r h
    cases b with
    | nil => simp [show r = [] by simpa using h.symm]
    | cons c tl => simp [unstuffLoop] at h
  | succ n ih =>
    intro b r h
    cases b with
    | nil => simp [show r = [] by simpa using h.symm]
    | cons c tl =>
      rw [unstuffLoop_cons] at h
      split_ifs at h with hc hlen hdata
      obtain ⟨q, hq, rfl⟩ := Option.map_eq_some_iff.mp h
      have hrest := ih hq
      obtain ⟨hone, hnone⟩ := impliedZero_length_le c (tl.drop (c.toNat - 1))
      rw [← List.length_eq_zero_iff] at hnone
      simp only [List.length_append, List.length_take, List.length_drop, List.length_cons] at hrest hone hnone ⊢
      omega

/-- An unstuffed result is shorter than its body (42_stuffing.md R105 item 1). -/
theorem unstuff_length_lt {b r : ByteSeq} (h : unstuff b = some r) : r.length + 1 ≤ b.length := by
  cases b with
  | nil => simp at h
  | cons c tl =>
    rw [unstuff_cons] at h
    simpa using unstuffLoop_length_le _ h

theorem stripDelim_length_le (f : ByteSeq) : (stripDelim f).length ≤ f.length := by
  unfold stripDelim
  split <;> simp

@[simp] theorem tier1_length (f : ByteSeq) : (tier1 f).length = f.length := by
  unfold tier1
  split <;> simp

@[simp] theorem tier2_length (r : ByteSeq) : (tier2 r).length = r.length := by
  unfold tier2
  split <;> simp

/-- Both the payload and the tier-2 fallback lie within the unstuffed result. -/
theorem checkTrailer_length_le (r : ByteSeq) : (checkTrailer r).1.length ≤ r.length := by
  simp only [checkTrailer]
  split
  · simp [slice_prefix]
  · simp

/-- DECODE's result is no longer than its input (43_frame_codec.md R127). -/
theorem decodeFrame_length_le (f : ByteSeq) : (decodeFrame f).1.length ≤ f.length := by
  unfold decodeFrame
  split
  · simp
  next r hr =>
    split
    · simp
    · calc (checkTrailer r).1.length
        _ ≤ r.length := checkTrailer_length_le r
        _ ≤ (stripDelim f).length := Nat.le_of_succ_le (unstuff_length_lt hr)
        _ ≤ f.length := stripDelim_length_le f

/-- The longest output of any command is a frame. -/
theorem output_length_le (i : Instr) (q : ByteSeq) : (i.output q).length ≤ encLenMax q.length := by
  cases i with
  | encode => exact encodeFrame_length_le q
  | decode => exact (decodeFrame_length_le q).trans (by unfold encLenMax; omega)
  | crc32 => simp only [Instr.output, be32_length, encLenMax]; omega
  | _ => exact Nat.zero_le _

theorem statusDone_ne_capacity (t : Tag) : statusDone t ≠ 0x0B := by
  cases t <;> decide

/-- Settles O19: no output is longer than EncLenMax of IN's length, so every computing command fits. -/
theorem largeOutCapRulesOutCapacity : Obligations.LargeOutCapRulesOutCapacity := by
  intro i s hcap hin
  obtain rfl | hi | hi := Instr.kind_cases i
  · exact ⟨s, exec_nop s, fun _ => rfl, fun h => absurd rfl h⟩
  · refine ⟨_, exec_reserved hi s, ?_, fun _ => by simp [reservedCmd]⟩
    rintro rfl
    cases hi
  · have hfits : (i.output s.inSeq).length ≤ s.params.outCap :=
      (output_length_le i s.inSeq).trans ((encLenMax_mono hin).trans hcap)
    refine ⟨_, exec_computing hi s, ?_, fun _ => ?_⟩
    · rintro rfl
      cases hi
    · rw [complete_of_fits _ _ hfits]
      simpa using statusDone_ne_capacity (outputTag i s)

end Sys2Proof.Machine

/-! ## The opcode map -/

namespace Sys2Proof

/-- Only the four commands have an opcode below 0x04 (30_encoding.md R62). -/
theorem reserved_of_opcodeOf_ge {i : Instr} (h : 0x04 ≤ (opcodeOf i).toNat) : i.reserved = true := by
  cases i with
  | nop | encode | decode | crc32 => exact absurd h (by decide)
  | reserved04 | reserved08 | reserved10 | reserved20 | reserved40 | reserved80 => rfl

/-- The decoder keeps the opcode, so from 0x04 up it answers a reserved command (30_encoding.md R63). -/
theorem decodeOp_reserved {v : Byte} (h : 0x04 ≤ v.toNat) : (decodeOp v).reserved = true :=
  reserved_of_opcodeOf_ge (by rwa [opcodeOf_decodeOp])

/-- Settles O2: the four commands by evaluation, the reserved bytes by their opcode. -/
theorem opcodeMap : Obligations.OpcodeMap :=
  ⟨rfl, rfl, rfl, rfl, fun v hv => ⟨decodeOp v, decode_one v, decodeOp_reserved hv⟩⟩

end Sys2Proof

/-! ## Stuffed bodies as sequences of blocks -/

namespace Sys2Proof.Machine

/-- The code byte that `emitBlock` puts before the block `d`. -/
def blockCode (d : ByteSeq) : Byte := BitVec.ofNat 8 (d.length + 1)

theorem emitBlock_append (d more : ByteSeq) : emitBlock d ++ more = blockCode d :: (d ++ more) := rfl

theorem blockOk_iff (d : ByteSeq) : blockOk d = true ↔ d.length ≤ maxBlock ∧ delimiter ∉ d := by
  simp [blockOk]

/-- A block of at most 254 bytes has a length that its code byte can hold. -/
theorem blockCode_toNat {d : ByteSeq} (h : d.length ≤ maxBlock) : (blockCode d).toNat = d.length + 1 := by
  have hlt : d.length + 1 < 2 ^ 8 := Nat.lt_succ_of_le (Nat.succ_le_succ h)
  rw [blockCode, BitVec.toNat_ofNat, Nat.mod_eq_of_lt hlt]

theorem blockCode_ne_delimiter {d : ByteSeq} (h : d.length ≤ maxBlock) : blockCode d ≠ delimiter := by
  intro hc
  have hn := blockCode_toNat h
  rw [hc] at hn
  exact Nat.succ_ne_zero _ hn.symm

/-- The code byte 0xFF is that of a full block, and of no other (30_encoding.md R67). -/
theorem blockCode_eq_fullCode_iff {d : ByteSeq} (h : d.length ≤ maxBlock) :
    blockCode d = fullCode ↔ d.length = maxBlock := by
  rw [← BitVec.toNat_inj, blockCode_toNat h]
  exact Nat.succ_inj

@[simp] theorem bodyBytes_nil : bodyBytes [] = [] := rfl

@[simp] theorem bodyBytes_cons (d : ByteSeq) (rest : List ByteSeq) :
    bodyBytes (d :: rest) = emitBlock d ++ bodyBytes rest := rfl

theorem bodyBytes_ne_nil {blocks : List ByteSeq} (h : blocks ≠ []) : bodyBytes blocks ≠ [] := by
  obtain ⟨d, rest, rfl⟩ := List.exists_cons_of_ne_nil h
  exact List.cons_ne_nil _ _

/-- Before another block, the unstuffer implies a zero unless the block `d` is full. -/
theorem impliedZero_blockCode {d more : ByteSeq} (h : d.length ≤ maxBlock) (hmore : more ≠ []) :
    impliedZero (blockCode d) more = if d.length < maxBlock then [delimiter] else [] := by
  simp [impliedZero, blockCode_eq_fullCode_iff h, hmore, Nat.lt_iff_le_and_ne, h]

/-- The zero that the unstuffer implies after a block is the one that the wire view puts there: after every block
that is neither full nor last. -/
theorem bodyData_cons {d : ByteSeq} (h : d.length ≤ maxBlock) (rest : List ByteSeq) :
    bodyData (d :: rest) = d ++ impliedZero (blockCode d) (bodyBytes rest) ++ bodyData rest := by
  cases rest with
  | nil => simp [bodyData, impliedZero]
  | cons e rest => rw [bodyData, impliedZero_blockCode h (bodyBytes_ne_nil (List.cons_ne_nil e rest))]

/-- One pass of the loop takes the first block off the body (42_stuffing.md R103). -/
theorem unstuffLoop_emitBlock {d : ByteSeq} (h : blockOk d = true) (n : Nat) (more : ByteSeq) :
    unstuffLoop (n + 1) (emitBlock d ++ more) =
      (unstuffLoop n more).map fun r => d ++ impliedZero (blockCode d) more ++ r := by
  obtain ⟨hlen, hzero⟩ := (blockOk_iff d).mp h
  have hfits : ¬ d.length + 1 > (d ++ more).length + 1 := by simp
  rw [emitBlock_append, unstuffLoop_cons, if_neg (blockCode_ne_delimiter hlen), blockCode_toNat hlen,
    if_neg hfits, Nat.add_sub_cancel, List.take_left, List.drop_left, if_neg hzero]

/-- The loop turns the bytes of well-formed blocks into their data. -/
theorem unstuffLoop_bodyBytes {blocks : List ByteSeq} : ∀ {n : Nat}, (∀ d ∈ blocks, blockOk d = true) →
    (bodyBytes blocks).length ≤ n → unstuffLoop n (bodyBytes blocks) = some (bodyData blocks) := by
  induction blocks with
  | nil =>
    intro n _ _
    exact unstuffLoop_nil n
  | cons d rest ih =>
    intro n hok hn
    obtain ⟨hd, hrest⟩ := List.forall_mem_cons.mp hok
    rw [bodyBytes_cons, List.length_append, emitBlock_length] at hn
    obtain ⟨n, rfl⟩ : ∃ k, n = k + 1 := ⟨n - 1, by omega⟩
    rw [bodyBytes_cons, unstuffLoop_emitBlock hd, ih hrest (by omega), bodyData_cons ((blockOk_iff d).mp hd).1]
    rfl

/-- What the unstuffer accepts at a code byte `c` is a well-formed block of `c - 1` data bytes. -/
theorem cons_eq_emitBlock_append {c : Byte} {tl : ByteSeq} (hc : c ≠ delimiter) (hlen : ¬ c.toNat > tl.length + 1)
    (hzero : delimiter ∉ tl.take (c.toNat - 1)) :
    blockOk (tl.take (c.toNat - 1)) = true ∧
      c :: tl = emitBlock (tl.take (c.toNat - 1)) ++ tl.drop (c.toNat - 1) := by
  have hpos : c.toNat ≠ 0 := fun h => hc (BitVec.eq_of_toNat_eq h)
  have htake : (tl.take (c.toNat - 1)).length = c.toNat - 1 := List.length_take_of_le (by omega)
  have hcode : blockCode (tl.take (c.toNat - 1)) = c := by
    rw [blockCode, htake, Nat.sub_add_cancel (Nat.pos_of_ne_zero hpos), BitVec.ofNat_toNat, BitVec.setWidth_eq]
  refine ⟨(blockOk_iff _).mpr ⟨?_, hzero⟩, ?_⟩
  · rw [htake]
    exact Nat.sub_le_of_le_add (Nat.le_of_lt_succ c.isLt)
  · rw [emitBlock_append, hcode, List.take_append_drop]

/-- The loop accepts nothing but the bytes of well-formed blocks. -/
theorem exists_blocks_of_unstuffLoop (n : Nat) : ∀ {b r : ByteSeq}, unstuffLoop n b = some r →
    ∃ blocks : List ByteSeq, (∀ d ∈ blocks, blockOk d = true) ∧ b = bodyBytes blocks := by
  induction n with
  | zero =>
    intro b r h
    cases b with
    | nil => exact ⟨[], by simp, rfl⟩
    | cons c tl => cases h
  | succ n ih =>
    intro b r h
    cases b with
    | nil => exact ⟨[], by simp, rfl⟩
    | cons c tl =>
      rw [unstuffLoop_cons] at h
      split_ifs at h with hc hlen hzero
      obtain ⟨q, hq, -⟩ := Option.map_eq_some_iff.mp h
      obtain ⟨blocks, hok, hmore⟩ := ih hq
      obtain ⟨hblock, hb⟩ := cons_eq_emitBlock_append hc hlen hzero
      exact ⟨_ :: blocks, List.forall_mem_cons.mpr ⟨hblock, hok⟩, by rw [hb, hmore, bodyBytes_cons]⟩

theorem unstuff_of_ne_nil {b : ByteSeq} (h : b ≠ []) : unstuff b = unstuffLoop b.length b := by
  obtain ⟨c, tl, rfl⟩ := List.exists_cons_of_ne_nil h
  exact unstuff_cons c tl

/-- Unstuff turns one or more well-formed blocks into their data (30_encoding.md R67). -/
theorem unstuff_bodyBytes {blocks : List ByteSeq} (hne : blocks ≠ []) (hok : ∀ d ∈ blocks, blockOk d = true) :
    unstuff (bodyBytes blocks) = some (bodyData blocks) := by
  rw [unstuff_of_ne_nil (bodyBytes_ne_nil hne), unstuffLoop_bodyBytes hok le_rfl]

/-- Unstuff accepts nothing but one or more well-formed blocks (30_encoding.md R67). -/
theorem exists_blocks_of_unstuff {b r : ByteSeq} (h : unstuff b = some r) :
    ∃ blocks : List ByteSeq, blocks ≠ [] ∧ (∀ d ∈ blocks, blockOk d = true) ∧ b = bodyBytes blocks := by
  have hb : b ≠ [] := by
    rintro rfl
    cases h
  rw [unstuff_of_ne_nil hb] at h
  obtain ⟨blocks, hok, rfl⟩ := exists_blocks_of_unstuffLoop _ h
  exact ⟨blocks, fun hnil => hb (by rw [hnil, bodyBytes_nil]), hok, rfl⟩

/-- Settles O27: an accepted body is cut into blocks, and blocks have only the one result, their data. -/
theorem validBodiesAreBlocks : Obligations.ValidBodiesAreBlocks := by
  intro b r
  constructor
  · intro h
    obtain ⟨blocks, hne, hok, rfl⟩ := exists_blocks_of_unstuff h
    rw [unstuff_bodyBytes hne hok] at h
    exact ⟨blocks, hne, hok, rfl, (Option.some.inj h).symm⟩
  · rintro ⟨blocks, hne, hok, rfl, rfl⟩
    exact unstuff_bodyBytes hne hok

end Sys2Proof.Machine

/-! ## Issue, dispatch and the completion of commands -/

namespace Sys2Proof.Machine

/-- A write to CMD is one step: CMD takes the byte, the action is consumed, the command runs (40_command.md R80). -/
theorem step_writeCmd {s : State} {v : Byte} {rest : List HostAction} (h : s.script = .writeCmd v :: rest) :
    step s = exec (decodeOp v) { s with cmd := v, script := rest } :=
  step_action h

@[simp] theorem complete_inSeq (q : ByteSeq) (t : Tag) (c : Option Word) (s : State) :
    (complete q t c s).inSeq = s.inSeq := by
  obtain ⟨_, e⟩ | ⟨_, e⟩ := complete_cases q t c s <;> simp [e]

/-- No command stops, and none writes IN (40_command.md R86). -/
theorem exec_completes (i : Instr) (s : State) : ∃ t, exec i s = .next t ∧ t.inSeq = s.inSeq := by
  obtain rfl | hi | hi := Instr.kind_cases i
  · exact ⟨s, exec_nop s, rfl⟩
  · exact ⟨_, exec_reserved hi s, rfl⟩
  · exact ⟨_, exec_computing hi s, complete_inSeq _ _ _ s⟩

/-- A computing command whose output is longer than OUT_CAP reports CAPACITY and writes nothing else. -/
theorem exec_of_overflow {i : Instr} {s : State} (hi : i.computing = true)
    (h : s.params.outCap < (i.output s.inSeq).length) : exec i s = .next { s with status := 0x0B } := by
  rw [exec_computing hi, complete_of_overflow _ _ h]
  rfl

/-- A computing command whose output fits writes OUT, the result code and, if it is one of the two that do, CRC_OUT. -/
theorem exec_of_fits {i : Instr} {s : State} (hi : i.computing = true)
    (h : (i.output s.inSeq).length ≤ s.params.outCap) :
    exec i s = .next { s with
      outSeq := i.output s.inSeq
      status := statusDone (outputTag i s)
      crcOut := if i.writesCrc then crc32 s.inSeq else s.crcOut } := by
  rw [exec_computing hi, complete_of_fits _ _ h, offeredCrc]
  cases i.writesCrc <;> rfl

/-- The result tag is computed from IN alone. -/
theorem outputTag_congr (i : Instr) {s u : State} (h : s.inSeq = u.inSeq) : outputTag i s = outputTag i u := by
  rw [outputTag, outputTag, h]

/-- Settles O16: IN fixes the output and the result code, and with OUT_CAP whether the output fits. -/
theorem resultsDependOnInAlone : Obligations.ResultsDependOnInAlone := by
  intro i s u hi hin hcap
  by_cases hfits : (i.output s.inSeq).length ≤ s.params.outCap
  · refine ⟨_, _, exec_of_fits hi hfits, exec_of_fits hi (by rwa [← hin, ← hcap]), ?_, fun _ => ⟨?_, fun hcrc => ?_⟩⟩
    · exact congrArg statusDone (outputTag_congr i hin)
    · exact congrArg i.output hin
    · simp [hcrc, hin]
  · have hover := Nat.lt_of_not_le hfits
    exact ⟨_, _, exec_of_overflow hi hover, exec_of_overflow hi (by rwa [← hin, ← hcap]), rfl, fun h => absurd rfl h⟩

/-- Settles O5: the step issues the command, and every command completes. -/
theorem stepRunsDecodedCommand : Obligations.StepRunsDecodedCommand := by
  intro s v rest i hscript hdecode
  cases hdecode
  obtain ⟨t, ht, -⟩ := exec_completes (decodeOp v) { s with cmd := v, script := rest }
  exact ⟨step_writeCmd hscript, t, (step_writeCmd hscript).trans ht⟩

/-- Settles O7: the four commands by their opcodes, every other byte because it decodes to a reserved command. -/
theorem dispatchByOpcode : Obligations.DispatchByOpcode := fun _ =>
  ⟨rfl, rfl, rfl, rfl, fun _ hv => exec_reserved (decodeOp_reserved hv) _⟩

/-- Settles O8: NOP answers the state it is given, which a write of 0x00 has changed in CMD alone. -/
theorem nopChangesOnlyCmd : Obligations.NopChangesOnlyCmd :=
  ⟨exec_nop, fun _ _ hscript => (step_writeCmd hscript).trans (exec_nop _)⟩

/-- Settles O9: all six reserved commands are `reservedCmd`, and every byte from 0x04 up decodes to one of them. -/
theorem reservedReportsBadOpcode : Obligations.ReservedReportsBadOpcode := by
  have bad {i : Instr} (hi : i.reserved = true) (s : State) : exec i s = .next { s with status := 0x07 } :=
    exec_reserved hi s
  exact ⟨fun s _ => ⟨bad rfl s, bad rfl s, bad rfl s, bad rfl s, bad rfl s, bad rfl s⟩,
    fun _ _ _ hv hscript => (step_writeCmd hscript).trans (bad (decodeOp_reserved hv) _)⟩

/-- Settles O13: the two outcomes of `complete`, the result code being that of the output's tag. -/
theorem computingCommandsComplete : Obligations.ComputingCommandsComplete := fun _ _ hi =>
  ⟨exec_of_overflow hi, fun h => ⟨_, statusDone_cases _, exec_of_fits hi h⟩⟩

/-- A body that cannot be unstuffed takes the tier-1 fallback (43_frame_codec.md R122). -/
theorem decodeFrame_of_unstuff_none {f : ByteSeq} (h : unstuff (stripDelim f) = none) :
    decodeFrame f = (tier1 f, .tier1) := by
  rw [decodeFrame, h]

/-- The tier-1 fallback of an input that has a byte 1 (43_frame_codec.md R125). -/
theorem tier1_of_two_le {f : ByteSeq} (h : 2 ≤ f.length) : tier1 f = f.set 1 0x02 := if_pos h

/-- Settles O14: no command writes IN, and on malformed stuffing DECODE's output is `tier1` of IN. -/
theorem everyCommandCompletesAndKeepsIn : Obligations.EveryCommandCompletesAndKeepsIn := by
  refine ⟨exec_completes, fun s hbad htwo hfits => ?_⟩
  have hout : Instr.decode.output s.inSeq = s.inSeq.set 1 0x02 := by
    rw [Instr.output, decodeFrame_of_unstuff_none hbad, tier1_of_two_le htwo]
  exact ⟨_, exec_of_fits rfl (by simpa [hout] using hfits), rfl, hout⟩

end Sys2Proof.Machine

/-! ## The checksum -/

namespace Sys2Proof.Machine

/-- A bit step as a shift and a feedback term (41_checksum.md R90). -/
theorem crcBit_eq_xor (c : Word) : crcBit c = c >>> 1 ^^^ (if c.getLsbD 0 then crcPoly else 0) := by
  rw [crcBit]
  split
  · rfl
  · exact BitVec.xor_zero.symm

/-- A bit step is linear: the feedback term depends on the register's bit 0 alone. -/
theorem crcBit_xor (x y : Word) : crcBit (x ^^^ y) = crcBit x ^^^ crcBit y := by
  have feedback : ∀ p q : Bool, (if p ^^ q then crcPoly else 0) =
      (if p then crcPoly else 0) ^^^ (if q then crcPoly else 0) := by decide
  rw [crcBit_eq_xor, crcBit_eq_xor, crcBit_eq_xor, BitVec.ushiftRight_xor_distrib, BitVec.getLsbD_xor, feedback]
  ac_rfl

theorem crcBits_xor (k : Nat) : ∀ x y : Word, crcBits k (x ^^^ y) = crcBits k x ^^^ crcBits k y := by
  induction k with
  | zero => exact fun _ _ => rfl
  | succ k ih =>
    intro x y
    rw [crcBits, crcBit_xor, ih]
    rfl

/-- On a register whose low bits are 0, bit steps only shift. -/
theorem crcBits_of_low_zero (k : Nat) : ∀ {x : Word}, (∀ i < k, x.getLsbD i = false) → crcBits k x = x >>> k := by
  induction k with
  | zero => exact fun _ => rfl
  | succ k ih =>
    intro x h
    have hbit : crcBit x = x >>> 1 := by
      rw [crcBit, h 0 (Nat.zero_lt_succ k)]
      rfl
    have hlow : ∀ i < k, (x >>> 1).getLsbD i = false := fun i hi => by
      rw [BitVec.getLsbD_ushiftRight, Nat.add_comm]
      exact h (i + 1) (Nat.succ_lt_succ hi)
    rw [crcBits, hbit, ih hlow, ← BitVec.shiftRight_add, Nat.add_comm]

theorem setWidth_byte_ushiftRight_eight (b : Byte) : b.setWidth 32 >>> 8 = 0#32 := by
  apply BitVec.eq_of_toNat_eq
  have hb := b.isLt
  rw [BitVec.toNat_ushiftRight, BitVec.toNat_setWidth_of_le (by decide), Nat.shiftRight_eq_div_pow]
  exact Nat.div_eq_of_lt hb

/-- Eight bit steps are one shift and one table entry: the low byte gives the entry, the rest is only shifted. -/
theorem crcBits_eight (x : Word) : crcBits 8 x = x >>> 8 ^^^ crcTable (x.extractLsb' 0 8) := by
  have hlow : ∀ i < 8, (x ^^^ (x.extractLsb' 0 8).setWidth 32).getLsbD i = false := fun i hi => by
    simp [hi, show i < 32 by omega]
  calc crcBits 8 x
    _ = crcBits 8 (x ^^^ (x.extractLsb' 0 8).setWidth 32) ^^^ crcTable (x.extractLsb' 0 8) := by
      rw [crcTable, ← crcBits_xor, BitVec.xor_assoc, BitVec.xor_self, BitVec.xor_zero]
    _ = x >>> 8 ^^^ crcTable (x.extractLsb' 0 8) := by
      rw [crcBits_of_low_zero 8 hlow, BitVec.ushiftRight_xor_distrib, setWidth_byte_ushiftRight_eight, BitVec.xor_zero]

/-- The table form does to the register what the bit-serial form does. -/
theorem crcTableByte_eq_crcByte (c : Word) (b : Byte) : crcTableByte c b = crcByte c b := by
  rw [crcByte, crcBits_eight, BitVec.ushiftRight_xor_distrib, setWidth_byte_ushiftRight_eight, BitVec.xor_zero]
  rfl

theorem crc32Serial_eq_crc32 (d : ByteSeq) : crc32Serial d = crc32 d := by
  rw [crc32Serial, crc32, funext₂ crcTableByte_eq_crcByte]

/-- Settles O22: the two forms agree byte by byte; the listed entries by evaluation. -/
theorem tableFormComputesCrc32 : Obligations.TableFormComputesCrc32 :=
  ⟨crc32Serial_eq_crc32, by decide⟩

theorem outputTag_of_ne_decode {i : Instr} (h : i ≠ .decode) (s : State) : outputTag i s = .ok := if_neg h

/-- Settles O10: CRC32 always puts 4 bytes in OUT, so OUT_CAP alone decides; the values by evaluation. -/
theorem crc32CommandResult : Obligations.Crc32CommandResult := by
  refine ⟨fun s hcap => ?_, fun s hcap => ?_, by decide +kernel⟩
  · rw [exec_of_fits rfl (by rwa [Instr.output, be32_length]), outputTag_of_ne_decode (by decide)]
    rfl
  · exact exec_of_overflow rfl (by rwa [Instr.output, be32_length])

end Sys2Proof.Machine

/-! ## Stuff, block by block -/

namespace Sys2Proof.Machine

/-- Non-zero bytes that do not fill the pending block join it. -/
theorem stuffFrom_run {d : ByteSeq} (rest : ByteSeq) : ∀ {blk : ByteSeq}, delimiter ∉ d →
    blk.length + d.length < maxBlock → stuffFrom blk (d ++ rest) = stuffFrom (blk ++ d) rest := by
  induction d with
  | nil => simp
  | cons x d ih =>
    intro blk hzero hlen
    rw [List.length_cons] at hlen
    have hx : x ≠ delimiter := fun h => hzero (h ▸ List.mem_cons_self)
    rw [List.cons_append, stuffFrom_nonzero _ hx (by omega),
      ih (fun h => hzero (List.mem_cons_of_mem x h)) (by simp; omega), List.append_assoc, List.singleton_append]

/-- A short run and the zero that ends it (42_stuffing.md R100). -/
theorem stuff_run_zero {d : ByteSeq} (hzero : delimiter ∉ d) (hlen : d.length < maxBlock) (rest : ByteSeq) :
    stuff (d ++ delimiter :: rest) = emitBlock d ++ stuff rest := by
  rw [stuff, stuffFrom_run _ hzero (by simpa using hlen), stuffFrom_zero]
  rfl

/-- The byte that fills the pending block is the last of a run of 254. -/
theorem stuff_full_run {d : ByteSeq} (hzero : delimiter ∉ d) (hlen : d.length = maxBlock) (rest : ByteSeq) :
    stuff (d ++ rest) = emitBlock d ++ if rest = [] then [] else stuff rest := by
  have hne : d ≠ [] := by
    rintro rfl
    cases hlen
  obtain ⟨blk, x, rfl⟩ := List.eq_nil_or_concat' d |>.resolve_left hne
  rw [List.length_append, List.length_singleton] at hlen
  simp only [List.mem_append, List.mem_singleton, not_or] at hzero
  obtain ⟨hblk, hx⟩ := hzero
  rw [stuff, List.append_assoc, stuffFrom_run _ hblk (by simp; omega), List.nil_append, List.singleton_append]
  split
  next hrest => rw [hrest, stuffFrom_full_last (Ne.symm hx) hlen, List.append_nil]
  next hrest => rw [stuffFrom_full (Ne.symm hx) hlen hrest, stuff]

/-- A run with nothing after it is one block, full or not (42_stuffing.md R100). -/
theorem stuff_last_run {d : ByteSeq} (hzero : delimiter ∉ d) (hlen : d.length ≤ maxBlock) :
    stuff d = emitBlock d := by
  obtain hlt | hfull := hlen.lt_or_eq
  · have h := stuffFrom_run (blk := []) [] hzero (by simpa using hlt)
    simpa [stuff] using h
  · simpa using stuff_full_run hzero hfull []

/-- The code byte of a full block is 0xFF (42_stuffing.md R100). -/
theorem emitBlock_full {d : ByteSeq} (h : d.length = maxBlock) : emitBlock d = 0xFF :: d := by
  rw [emitBlock, h]
  rfl

/-- Settles O25: a short run, a full one and a last one. -/
theorem stuffBlockByBlock : Obligations.StuffBlockByBlock := by
  refine ⟨fun d rest hzero hlen => stuff_run_zero hzero hlen rest, fun d rest hzero hlen hrest => ?_,
    fun d hzero hlen => stuff_last_run hzero hlen⟩
  rw [stuff_full_run hzero hlen, if_neg hrest, emitBlock_full hlen]

end Sys2Proof.Machine

/-! ## The properties of Stuff -/

namespace Sys2Proof.Machine

theorem unstuffLoop_eq_unstuff {n : Nat} {b : ByteSeq} (hb : b ≠ []) (hn : b.length ≤ n) :
    unstuffLoop n b = unstuff b := by
  rw [unstuff_of_ne_nil hb, unstuffLoop_fuel b.length n b le_rfl hn]

/-- Unstuff reads a body that is one block. -/
theorem unstuff_emitBlock {d : ByteSeq} (h : blockOk d = true) : unstuff (emitBlock d) = some d := by
  have hone := unstuff_bodyBytes (List.cons_ne_nil d []) (by simpa using h)
  rwa [bodyBytes_cons, bodyBytes_nil, List.append_nil] at hone

/-- Unstuff takes the first of several blocks off a body, with a zero for the next code byte unless the block is
full (42_stuffing.md R103). -/
theorem unstuff_emitBlock_append {d more : ByteSeq} (h : blockOk d = true) (hmore : more ≠ []) :
    unstuff (emitBlock d ++ more) =
      (unstuff more).map fun r => d ++ (if d.length < maxBlock then [delimiter] else []) ++ r := by
  rw [← unstuffLoop_eq_unstuff (n := more.length + d.length + 1) (by simp [emitBlock]) (by simp; omega),
    unstuffLoop_emitBlock h, unstuffLoop_eq_unstuff hmore (by omega),
    impliedZero_blockCode ((blockOk_iff d).mp h).1 hmore]

theorem emitBlock_ne_nil (d : ByteSeq) : emitBlock d ≠ [] := List.cons_ne_nil _ _

theorem stuffFrom_ne_nil (blk d : ByteSeq) : stuffFrom blk d ≠ [] := by
  fun_induction stuffFrom blk d with simp_all [emitBlock_ne_nil]

theorem blockOk_concat {blk : ByteSeq} {x : Byte} (hlen : blk.length < maxBlock) (hzero : delimiter ∉ blk)
    (hx : x ≠ delimiter) : blockOk (blk ++ [x]) = true :=
  (blockOk_iff _).mpr ⟨by simpa using hlen, by simp [hzero, Ne.symm hx]⟩

/-- Unstuff gives back the pending bytes and the bytes still to come. The cases are the loop's: the end, a zero, the
byte that fills the last block, the byte that fills an earlier one, and any other byte. -/
theorem unstuff_stuffFrom (blk d : ByteSeq) (hlen : blk.length < maxBlock) (hzero : delimiter ∉ blk) :
    unstuff (stuffFrom blk d) = some (blk ++ d) := by
  have hok : blockOk blk = true := (blockOk_iff blk).mpr ⟨hlen.le, hzero⟩
  fun_induction stuffFrom blk d with
  | case1 blk => rw [unstuff_emitBlock hok, List.append_nil]
  | case2 blk rest ih =>
    rw [unstuff_emitBlock_append hok (stuffFrom_ne_nil [] rest), ih (by decide) (by simp) rfl, if_pos hlen]
    simp
  | case3 blk x hx hfull => exact unstuff_emitBlock (blockOk_concat hlen hzero hx)
  | case4 blk x rest hx hfull hrest ih =>
    have hlast : ¬ (blk ++ [x]).length < maxBlock := by simp [hfull]
    rw [unstuff_emitBlock_append (blockOk_concat hlen hzero hx) (stuffFrom_ne_nil [] rest),
      ih (by decide) (by simp) rfl, if_neg hlast]
    simp
  | case5 blk x rest hx hfull ih =>
    have hmore := blockOk_concat hlen hzero hx
    have hmem := ((blockOk_iff _).mp hmore).2
    rw [ih (by simp; omega) hmem hmore, List.append_assoc, List.singleton_append]

/-- Unstuff undoes Stuff (42_stuffing.md R102 item 4). -/
theorem unstuff_stuff (d : ByteSeq) : unstuff (stuff d) = some d :=
  unstuff_stuffFrom [] d (by decide) (by simp)

theorem delimiter_not_mem_emitBlock {d : ByteSeq} (h : blockOk d = true) : delimiter ∉ emitBlock d := by
  obtain ⟨hlen, hzero⟩ := (blockOk_iff d).mp h
  exact List.not_mem_cons_of_ne_of_not_mem (blockCode_ne_delimiter hlen).symm hzero

/-- A body that can be unstuffed has no zero byte: its blocks have none. -/
theorem delimiter_not_mem_of_unstuff {b r : ByteSeq} (h : unstuff b = some r) : delimiter ∉ b := by
  obtain ⟨blocks, -, hok, rfl⟩ := exists_blocks_of_unstuff h
  rw [bodyBytes, List.mem_flatMap]
  rintro ⟨d, hd, hmem⟩
  exact delimiter_not_mem_emitBlock (hok d hd) hmem

/-- Stuff never outputs a zero byte (42_stuffing.md R102 item 1). -/
theorem delimiter_not_mem_stuff (d : ByteSeq) : delimiter ∉ stuff d :=
  delimiter_not_mem_of_unstuff (unstuff_stuff d)

/-- Stuff adds at least one code byte. -/
theorem stuff_length_ge (d : ByteSeq) : d.length + 1 ≤ (stuff d).length :=
  unstuff_length_lt (unstuff_stuff d)

/-- Without a zero, every block but the last is full, so stuffing adds as many code bytes as it can. -/
theorem stuff_length_of_no_zero (d : ByteSeq) (hpos : 1 ≤ d.length) (hzero : delimiter ∉ d) :
    (stuff d).length = d.length + (d.length + 253) / 254 := by
  by_cases hlen : d.length ≤ maxBlock
  · rw [stuff_last_run hzero hlen, emitBlock_length]
    unfold maxBlock at hlen
    omega
  · have htake : (d.take maxBlock).length = maxBlock := List.length_take_of_le (by omega)
    have hrest : d.drop maxBlock ≠ [] := by simpa using hlen
    have hcut : stuff d = emitBlock (d.take maxBlock) ++ stuff (d.drop maxBlock) := by
      conv_lhs => rw [← List.take_append_drop maxBlock d]
      rw [stuff_full_run (fun h => hzero (List.mem_of_mem_take h)) htake, if_neg hrest]
    have ih := stuff_length_of_no_zero (d.drop maxBlock) (List.length_pos_iff.mpr hrest)
      (fun h => hzero (List.mem_of_mem_drop h))
    rw [hcut, List.length_append, emitBlock_length, htake, ih, List.length_drop]
    unfold maxBlock at hlen ⊢
    omega
termination_by d.length
decreasing_by simp [maxBlock]; omega

/-- Settles O26: what Stuff gives can be unstuffed, so it has no zero and is longer than its input. -/
theorem stuffProperties : Obligations.StuffProperties := by
  refine ⟨delimiter_not_mem_stuff, fun d => (Nat.le_add_left 1 d.length).trans (stuff_length_ge d), rfl,
    fun d hpos => ⟨stuff_length_ge d, ?_⟩, stuff_length_of_no_zero, unstuff_stuff⟩
  have hle := stuff_length_le d
  omega

end Sys2Proof.Machine

/-! ## The delimiter -/

namespace Sys2Proof.Machine

/-- StripDelim looks at the last byte alone (42_stuffing.md R107). -/
theorem stripDelim_concat (f : ByteSeq) (x : Byte) :
    stripDelim (f ++ [x]) = if x = delimiter then f else f ++ [x] := by
  simp [stripDelim]

theorem stripDelim_of_delimiter_not_mem {f : ByteSeq} (h : delimiter ∉ f) : stripDelim f = f :=
  if_neg fun hlast => h (List.mem_of_getLast? hlast)

/-- Settles O31: the empty sequence, and one with a last byte. -/
theorem stripDelimTakesOneFinalZero : Obligations.StripDelimTakesOneFinalZero :=
  ⟨stripDelim_nil, stripDelim_concat⟩

/-- Settles O32: the stuffed body has no zero, so the terminator is the only one. -/
theorem frameHasOneZeroAtItsEnd : Obligations.FrameHasOneZeroAtItsEnd := by
  intro p
  have hbody := delimiter_not_mem_stuff (p ++ trailer p)
  refine ⟨?_, List.getLast?_concat, ?_, stripDelim_of_delimiter_not_mem hbody⟩
  · rw [encodeFrame, List.count_append]
    exact congrArg (· + 1) (List.count_eq_zero.mpr hbody)
  · rw [encodeFrame, stripDelim_concat, if_pos rfl]
    rfl

end Sys2Proof.Machine

/-! ## Malformed bodies -/

namespace Sys2Proof.Machine

/-- One pass at a code byte that is not zero: the `c - 1` data bytes must be there, none of them zero. -/
theorem unstuffLoop_cons_of_ne {c : Byte} (hc : c ≠ delimiter) (n : Nat) (tl : ByteSeq) :
    unstuffLoop (n + 1) (c :: tl) =
      if tl.length < c.toNat - 1 ∨ delimiter ∈ tl.take (c.toNat - 1) then none
      else (unstuffLoop n (tl.drop (c.toNat - 1))).map fun r =>
        tl.take (c.toNat - 1) ++ impliedZero c (tl.drop (c.toNat - 1)) ++ r := by
  have hlen : c.toNat > tl.length + 1 ↔ tl.length < c.toNat - 1 := by omega
  simp only [unstuffLoop_cons, if_neg hc, hlen, ite_or]

/-- The end of the body is no failure of the loop; of what comes before it, Unstuff fails on the same. -/
theorem unstuffLoop_eq_none_iff {n : Nat} {b : ByteSeq} (hn : b.length ≤ n) :
    unstuffLoop n b = none ↔ b ≠ [] ∧ unstuff b = none := by
  by_cases hb : b = []
  · simp [hb]
  · simp [unstuffLoop_eq_unstuff hb hn, hb]

/-- Unstuff fails at the first block or from the next code byte on. -/
theorem unstuff_cons_eq_none_iff (c : Byte) (tl : ByteSeq) :
    unstuff (c :: tl) = none ↔
      (c = delimiter ∨ tl.length < c.toNat - 1 ∨ delimiter ∈ tl.take (c.toNat - 1)) ∨
        tl.drop (c.toNat - 1) ≠ [] ∧ unstuff (tl.drop (c.toNat - 1)) = none := by
  rw [unstuff_cons]
  by_cases hc : c = delimiter
  · simp [hc, unstuffLoop_cons]
  · rw [unstuffLoop_cons_of_ne hc, ite_eq_left_iff, Option.map_eq_none_iff, unstuffLoop_eq_none_iff (by simp),
      or_iff_right hc, or_iff_not_imp_left (b := _ ∧ _)]

/-- The code byte `c` at index `i` of `b` begins no well-formed block: M2, M3 or M4 holds of it
(42_stuffing.md R104). -/
def BadBlock (b : ByteSeq) (i : Nat) (c : Byte) : Prop :=
  c = delimiter ∨ i + c.toNat > b.length ∨ ∃ j, 1 ≤ j ∧ j < c.toNat ∧ b[i + j]? = some delimiter

/-- M2, M3 and M4 speak of a bad block at an index where a code byte must stand. -/
theorem malformed_iff_badBlock (b : ByteSeq) :
    MalformedCode b ∨ MalformedRun b ∨ MalformedData b ↔
      ∃ i c, CodeAt b i ∧ b[i]? = some c ∧ BadBlock b i c := by
  unfold BadBlock
  constructor
  · rintro (⟨i, hi, hz⟩ | ⟨i, c, hi, hc, hrun⟩ | ⟨i, c, j, hi, hc, hj⟩)
    · exact ⟨i, _, hi, hz, .inl rfl⟩
    · exact ⟨i, c, hi, hc, .inr (.inl hrun)⟩
    · exact ⟨i, c, hi, hc, .inr (.inr ⟨j, hj⟩)⟩
  · rintro ⟨i, c, hi, hc, rfl | hrun | ⟨j, hj⟩⟩
    · exact .inl ⟨i, hi, hc⟩
    · exact .inr (.inl ⟨i, c, hi, hc, hrun⟩)
    · exact .inr (.inr ⟨i, c, j, hi, hc, hj⟩)

/-- A zero among the data bytes of the block at index `i`, by its distance `j` from the code byte. -/
theorem delimiter_mem_take_drop_iff (b : ByteSeq) (i n : Nat) :
    delimiter ∈ (b.drop (i + 1)).take (n - 1) ↔ ∃ j, 1 ≤ j ∧ j < n ∧ b[i + j]? = some delimiter := by
  rw [List.mem_iff_getElem?]
  constructor
  · rintro ⟨k, hk⟩
    rw [List.getElem?_take, List.getElem?_drop, Nat.add_assoc, Nat.add_comm 1 k] at hk
    split_ifs at hk with hlt
    exact ⟨k + 1, by omega, by omega, hk⟩
  · rintro ⟨j, hpos, hlt, hj⟩
    obtain ⟨k, rfl⟩ : ∃ k, j = k + 1 := ⟨j - 1, by omega⟩
    refine ⟨k, ?_⟩
    rw [List.getElem?_take_of_lt (by omega), List.getElem?_drop, Nat.add_assoc, Nat.add_comm 1 k, hj]

/-- From index `i` on Unstuff fails at the block that begins there or from the next code byte on. -/
theorem unstuff_drop_eq_none_iff {b : ByteSeq} {i : Nat} {c : Byte} (hc : b[i]? = some c) :
    unstuff (b.drop i) = none ↔
      BadBlock b i c ∨ i + c.toNat < b.length ∧ unstuff (b.drop (i + c.toNat)) = none := by
  obtain ⟨hi, hget⟩ := List.getElem?_eq_some_iff.mp hc
  rw [List.drop_eq_getElem_cons hi, hget, unstuff_cons_eq_none_iff, delimiter_mem_take_drop_iff, BadBlock]
  by_cases hz : c = delimiter
  · simp [hz]
  have hpos : c.toNat ≠ 0 := fun h => hz (BitVec.eq_of_toNat_eq h)
  have hrun : (b.drop (i + 1)).length < c.toNat - 1 ↔ i + c.toNat > b.length := by
    rw [List.length_drop]
    omega
  have hmore : (b.drop (i + 1)).drop (c.toNat - 1) = b.drop (i + c.toNat) := by
    rw [List.drop_drop, show i + 1 + (c.toNat - 1) = i + c.toNat by omega]
  rw [hrun, hmore, Ne, List.drop_eq_nil_iff, Nat.not_le]

theorem CodeAt.lt_length {b : ByteSeq} {i : Nat} (h : CodeAt b i) : i < b.length := by
  cases h with
  | first hne => exact List.length_pos_iff.mpr hne
  | next _ _ _ hlt => exact hlt

/-- Unstuff comes to every index where a code byte must stand, so failing from there on is failing. -/
theorem unstuff_eq_none_of_codeAt {b : ByteSeq} {i : Nat} (h : CodeAt b i) (hnone : unstuff (b.drop i) = none) :
    unstuff b = none := by
  induction h with
  | first => exact hnone
  | next _ hc _ hlt ih => exact ih ((unstuff_drop_eq_none_iff hc).mpr (.inr ⟨hlt, hnone⟩))

/-- Unstuff fails only at a bad block. -/
theorem exists_badBlock_of_unstuff_none {b : ByteSeq} {i : Nat} (h : CodeAt b i) (hnone : unstuff (b.drop i) = none) :
    ∃ i c, CodeAt b i ∧ b[i]? = some c ∧ BadBlock b i c := by
  have hi := h.lt_length
  have hc := List.getElem?_eq_getElem hi
  by_cases hbad : BadBlock b i b[i]
  · exact ⟨i, _, h, hc, hbad⟩
  · obtain ⟨hlt, hrest⟩ := ((unstuff_drop_eq_none_iff hc).mp hnone).resolve_left hbad
    have hne : b[i] ≠ delimiter := fun hz => hbad (.inl hz)
    exact exists_badBlock_of_unstuff_none (h.next hc hne hlt) hrest
termination_by b.length - i
decreasing_by
  have hpos : b[i].toNat ≠ 0 := fun hz => hne (BitVec.eq_of_toNat_eq hz)
  omega

/-- Unstuff fails exactly on the conditions M1 to M4 (42_stuffing.md R104). -/
theorem unstuff_eq_none_iff (b : ByteSeq) :
    unstuff b = none ↔ MalformedEmpty b ∨ MalformedCode b ∨ MalformedRun b ∨ MalformedData b := by
  rw [malformed_iff_badBlock]
  constructor
  · intro hnone
    by_cases hb : b = []
    · exact .inl hb
    · exact .inr (exists_badBlock_of_unstuff_none (.first hb) hnone)
  · rintro (rfl | ⟨i, c, hi, hc, hbad⟩)
    · rfl
    · exact unstuff_eq_none_of_codeAt hi ((unstuff_drop_eq_none_iff hc).mpr (.inl hbad))

/-- A body whose data is too short to hold a trailer takes the tier-1 fallback (43_frame_codec.md R123). -/
theorem decodeFrame_of_short {f r : ByteSeq} (h : unstuff (stripDelim f) = some r) (hr : r.length < trailerLen) :
    decodeFrame f = (tier1 f, .tier1) := by
  simp [decodeFrame, h, hr]

/-- A full block as the last one is accepted, and so is a code byte 0x01 after it (42_stuffing.md R104). -/
theorem unstuff_full_block {d : ByteSeq} (hlen : d.length = maxBlock) (hzero : delimiter ∉ d) :
    unstuff (0xFF :: d) = some d ∧ unstuff (0xFF :: d ++ [0x01]) = some d := by
  have hok : blockOk d = true := (blockOk_iff d).mpr ⟨hlen.le, hzero⟩
  have hlast : unstuff [0x01] = some [] := rfl
  rw [← emitBlock_full hlen, unstuff_emitBlock hok, unstuff_emitBlock_append hok (by simp), hlast, if_neg hlen.not_lt]
  simp

/-- Settles O28: the two forms that Stuff never produces are blocks; an empty result is too short for a trailer. -/
theorem malformedBodies : Obligations.MalformedBodies := by
  refine ⟨unstuff_eq_none_iff, fun d hlen hzero => unstuff_full_block hlen hzero, fun f h => ?_⟩
  obtain hempty | hnil := h
  · exact decodeFrame_of_unstuff_none (by rw [hempty, unstuff_nil])
  · exact decodeFrame_of_short hnil (by decide)

end Sys2Proof.Machine

/-! ## The byte-serial unstuffer -/

namespace Sys2Proof.Machine

/-- The byte-serial unit that has read the code byte `c` and still waits for `k` data bytes of its block
(42_stuffing.md R106). -/
def UnstuffUnit.inBlock (c : Byte) (k : Nat) (out : ByteSeq) : UnstuffUnit :=
  { mode := if k > 0 then .data else .code, rem := k, full := c == fullCode, first := false, err := false, out := out }

theorem unstuffByte_start {c : Byte} (hc : c ≠ delimiter) :
    unstuffByte unstuffStart c = .inBlock c (c.toNat - 1) [] := by
  simp [unstuffByte, unstuffStart, unstuffCodeByte, UnstuffUnit.inBlock, hc]

/-- A zero byte is an error in either mode. -/
theorem unstuffByte_delimiter {u : UnstuffUnit} (h : u.err = false) :
    unstuffByte u delimiter = { u with err := true } := by
  simp [unstuffByte, h]

/-- Inside a block the unit takes a data byte. -/
theorem unstuffByte_inBlock_succ {c x : Byte} (hx : x ≠ delimiter) (k : Nat) (out : ByteSeq) :
    unstuffByte (.inBlock c (k + 1) out) x = .inBlock c k (out ++ [x]) := by
  by_cases hk : k = 0 <;> simp [unstuffByte, unstuffDataByte, UnstuffUnit.inBlock, hx, hk, Nat.pos_iff_ne_zero]

/-- At the end of a block the unit takes the next code byte and emits the zero implied before it. -/
theorem unstuffByte_inBlock_zero {c x : Byte} (hx : x ≠ delimiter) (tl out : ByteSeq) :
    unstuffByte (.inBlock c 0 out) x = .inBlock x (x.toNat - 1) (out ++ impliedZero c (x :: tl)) := by
  by_cases hc : c = fullCode <;>
    simp [unstuffByte, unstuffCodeByte, UnstuffUnit.inBlock, impliedZero, hx, hc]

/-- After an error the unit skips every byte. -/
theorem foldl_unstuffByte_err {u : UnstuffUnit} (h : u.err = true) (b : ByteSeq) : b.foldl unstuffByte u = u := by
  induction b with
  | nil => rfl
  | cons x tl ih => rw [List.foldl_cons, unstuffByte, if_pos h, ih]

theorem unstuffEnd_foldl_delimiter {u : UnstuffUnit} (h : u.err = false) (tl : ByteSeq) :
    unstuffEnd ((delimiter :: tl).foldl unstuffByte u) = none := by
  rw [List.foldl_cons, unstuffByte_delimiter h, foldl_unstuffByte_err rfl]
  simp [unstuffEnd]

/-- The unit reads the `k` data bytes that it waits for; it fails when they are not there or one of them is zero. -/
theorem unstuffEnd_foldl_inBlock (c : Byte) (k : Nat) (tl out : ByteSeq) :
    unstuffEnd (tl.foldl unstuffByte (.inBlock c k out)) =
      if tl.length < k ∨ delimiter ∈ tl.take k then none
      else unstuffEnd ((tl.drop k).foldl unstuffByte (.inBlock c 0 (out ++ tl.take k))) := by
  induction k generalizing tl out with
  | zero => simp
  | succ k ih =>
    cases tl with
    | nil => simp [unstuffEnd, UnstuffUnit.inBlock]
    | cons x tl =>
      by_cases hx : x = delimiter
      · rw [hx, unstuffEnd_foldl_delimiter rfl]
        simp
      · rw [List.foldl_cons, unstuffByte_inBlock_succ hx, ih]
        simp [Ne.symm hx]

theorem unstuffLoop_delimiter (n : Nat) (tl : ByteSeq) : unstuffLoop n (delimiter :: tl) = none := by
  cases n with
  | zero => rfl
  | succ n => rw [unstuffLoop_cons, if_pos rfl]

/-- From a code byte on, the unit appends to its output what the loop of Unstuff gives. -/
theorem unstuffEnd_foldl_block (n : Nat) : ∀ {c : Byte} {tl : ByteSeq} (out : ByteSeq), c ≠ delimiter →
    (c :: tl).length ≤ n →
    unstuffEnd (tl.foldl unstuffByte (.inBlock c (c.toNat - 1) out)) =
      (unstuffLoop n (c :: tl)).map (out ++ ·) := by
  induction n with
  | zero => exact fun _ _ h => absurd h (Nat.not_succ_le_zero _)
  | succ n ih =>
    intro c tl out hc hn
    have hrest : (tl.drop (c.toNat - 1)).length ≤ n := by
      rw [List.length_cons] at hn
      rw [List.length_drop]
      omega
    rw [unstuffEnd_foldl_inBlock, unstuffLoop_cons_of_ne hc]
    split
    · rfl
    cases hmore : tl.drop (c.toNat - 1) with
    | nil => simp [unstuffEnd, UnstuffUnit.inBlock, impliedZero]
    | cons x more =>
      by_cases hx : x = delimiter
      · rw [hx, unstuffEnd_foldl_delimiter rfl, unstuffLoop_delimiter]
        rfl
      · rw [List.foldl_cons, unstuffByte_inBlock_zero hx more, ih _ hx (hmore ▸ hrest), Option.map_map]
        simp [Function.comp_def]

/-- Settles O30: the first code byte brings the unit to the state in which it follows the loop. -/
theorem serialUnstuffAgrees : Obligations.SerialUnstuffAgrees := by
  intro b
  cases b with
  | nil => rfl
  | cons c tl =>
    by_cases hc : c = delimiter
    · rw [unstuffSerial, hc, unstuffEnd_foldl_delimiter rfl, unstuff_cons, unstuffLoop_delimiter]
    · rw [unstuffSerial, List.foldl_cons, unstuffByte_start hc, unstuffEnd_foldl_block (tl.length + 1) [] hc le_rfl,
        unstuff_cons]
      simp

end Sys2Proof.Machine

/-! ## Decode by its steps -/

namespace Sys2Proof.Machine

/-- Decode of a body that ends in a 4-byte trailer: the trailer is compared with the CRC32 of the bytes before it
(43_frame_codec.md R122 steps 4 to 7). -/
theorem decodeFrame_of_trailer {f payload t : ByteSeq} (h : unstuff (stripDelim f) = some (payload ++ t))
    (ht : t.length = trailerLen) :
    decodeFrame f =
      if be32Value t = crc32 payload then (payload, .ok) else (tier2 (payload ++ t), .tier2) := by
  have hcut : (payload ++ t).length - trailerLen = payload.length := by simp [ht]
  have hlong : ¬ (payload ++ t).length < trailerLen := by simp [ht]
  simp only [decodeFrame, h, if_neg hlong, checkTrailer, hcut, slice_prefix, slice_suffix, List.take_left,
    List.drop_left]

/-- Settles O33: the two tier-1 tests, then the comparison on a body that ends in four bytes. -/
theorem decodeBySteps : Obligations.DecodeBySteps := by
  refine fun f => ⟨decodeFrame_of_unstuff_none, fun r => decodeFrame_of_short, ?_, ?_⟩
  · intro payload t0 t1 t2 t3 h hcrc
    rw [decodeFrame_of_trailer h rfl, if_pos hcrc]
  · intro payload t0 t1 t2 t3 h hcrc
    rw [decodeFrame_of_trailer h rfl, if_neg hcrc]

/-- Everything Decode can do: the fallback on the input when the body is malformed or too short for a trailer;
otherwise the body is a payload and a trailer, and the checksum decides between the payload and the fallback on the
whole body (43_frame_codec.md R122, R123). -/
theorem decodeFrame_cases (f : ByteSeq) :
    ((∀ r, unstuff (stripDelim f) = some r → r.length < trailerLen) ∧ decodeFrame f = (tier1 f, .tier1)) ∨
    ∃ payload t, unstuff (stripDelim f) = some (payload ++ t) ∧ t.length = trailerLen ∧
      ((be32Value t = crc32 payload ∧ decodeFrame f = (payload, .ok)) ∨
       (be32Value t ≠ crc32 payload ∧ decodeFrame f = (tier2 (payload ++ t), .tier2))) := by
  cases h : unstuff (stripDelim f) with
  | none => exact .inl ⟨by simp, decodeFrame_of_unstuff_none h⟩
  | some r =>
    by_cases hr : r.length < trailerLen
    · exact .inl ⟨by simpa using hr, decodeFrame_of_short h hr⟩
    · have hcut := List.take_append_drop (r.length - trailerLen) r
      have ht : (r.drop (r.length - trailerLen)).length = trailerLen := by
        rw [List.length_drop]
        omega
      refine .inr ⟨_, _, congrArg some hcut.symm, ht, ?_⟩
      rw [decodeFrame_of_trailer (by rw [h, hcut]) ht]
      split
      next hcrc => exact .inl ⟨hcrc, rfl⟩
      next hcrc => exact .inr ⟨hcrc, rfl⟩

theorem decodeFrame_of_tier1 {f : ByteSeq} (h : (decodeFrame f).2 = .tier1) : decodeFrame f = (tier1 f, .tier1) := by
  obtain ⟨-, e⟩ | ⟨_, _, -, -, ⟨-, e⟩ | ⟨-, e⟩⟩ := decodeFrame_cases f
  · exact e
  · simp [e] at h
  · simp [e] at h

theorem decodeFrame_of_tier2 {f : ByteSeq} (h : (decodeFrame f).2 = .tier2) :
    ∃ r, unstuff (stripDelim f) = some r ∧ trailerLen ≤ r.length ∧ decodeFrame f = (tier2 r, .tier2) := by
  obtain ⟨-, e⟩ | ⟨payload, t, hr, ht, ⟨-, e⟩ | ⟨-, e⟩⟩ := decodeFrame_cases f
  · simp [e] at h
  · simp [e] at h
  · exact ⟨_, hr, by simp [ht], e⟩

theorem decodeFrame_of_ok {f : ByteSeq} (h : (decodeFrame f).2 = .ok) :
    ∃ payload t, unstuff (stripDelim f) = some (payload ++ t) ∧ t.length = trailerLen ∧
      be32Value t = crc32 payload ∧ decodeFrame f = (payload, .ok) := by
  obtain ⟨-, e⟩ | ⟨payload, t, hr, ht, ⟨hcrc, e⟩ | ⟨-, e⟩⟩ := decodeFrame_cases f
  · simp [e] at h
  · exact ⟨payload, t, hr, ht, hcrc, e⟩
  · simp [e] at h

end Sys2Proof.Machine

/-! ## The two fallbacks -/

namespace Sys2Proof.Machine

/-- Where there is no byte 1, setting it changes nothing, so `tier1` needs no case split (43_frame_codec.md R125). -/
theorem tier1_eq_set (f : ByteSeq) : tier1 f = f.set 1 0x02 := by
  by_cases h : 2 ≤ f.length
  · exact tier1_of_two_le h
  · rw [tier1, if_neg h, List.set_eq_of_length_le (by omega)]

/-- The tier-2 fallback of a result that has a byte 1 (43_frame_codec.md R126). -/
theorem tier2_of_two_le {r : ByteSeq} (h : 2 ≤ r.length) : tier2 r = r.set 1 0x03 := if_pos h

/-- An unstuffed result is shorter than the input it comes from, its terminator aside (43_frame_codec.md R127). -/
theorem unstuff_stripDelim_length_lt {f r : ByteSeq} (h : unstuff (stripDelim f) = some r) :
    r.length + 1 ≤ f.length :=
  (unstuff_length_lt h).trans (stripDelim_length_le f)

/-- An input too short for a code byte and a trailer takes the tier-1 fallback. -/
theorem decodeFrame_of_length_le {f : ByteSeq} (h : f.length ≤ trailerLen) : decodeFrame f = (tier1 f, .tier1) := by
  obtain ⟨-, e⟩ | ⟨payload, t, hr, ht, -⟩ := decodeFrame_cases f
  · exact e
  · have hlt := unstuff_stripDelim_length_lt hr
    rw [List.length_append] at hlt
    omega

/-- Settles O34: the result is the input with byte 1 set, which is the input itself without a byte 1 or with 0x02
there already. -/
theorem tierOneReturnsTheInput : Obligations.TierOneReturnsTheInput := by
  refine ⟨fun f h => ?_, fun f h => ?_, fun f h1 h => ?_⟩
  · rw [decodeFrame_of_tier1 h, tier1_eq_set]
    exact ⟨List.length_set, List.getElem?_set_self, fun k hk => List.getElem?_set_ne hk.symm⟩
  · rw [decodeFrame_of_length_le (by unfold trailerLen; omega), tier1_eq_set, List.set_eq_of_length_le (by omega)]
  · obtain ⟨hlen, hget⟩ := List.getElem?_eq_some_iff.mp h1
    rw [decodeFrame_of_tier1 h, tier1_eq_set, ← hget, List.set_getElem_self]

/-- Settles O35: the result is an unstuffed one of at least 4 bytes, with byte 1 set. -/
theorem tierTwoReturnsTheBody : Obligations.TierTwoReturnsTheBody := by
  intro f h
  obtain ⟨r, hr, hlen, e⟩ := decodeFrame_of_tier2 h
  have htwo : 2 ≤ r.length := le_trans (by decide) hlen
  refine ⟨r, hr, hlen, ?_⟩
  rw [e, tier2_of_two_le htwo]
  exact ⟨List.length_set, List.getElem?_set_self htwo, fun k hk => List.getElem?_set_ne hk.symm⟩

end Sys2Proof.Machine

/-! ## The lengths of frames and of decoded results -/

namespace Sys2Proof.Machine

@[simp] theorem trailer_length (p : ByteSeq) : (trailer p).length = trailerLen := rfl

/-- A frame's stuffed body and its terminator. -/
theorem encodeFrame_length (p : ByteSeq) : (encodeFrame p).length = (stuff (p ++ trailer p)).length + 1 := by
  simp [encodeFrame]

/-- A frame adds at least the trailer, one code byte and the terminator (43_frame_codec.md R127). -/
theorem encodeFrame_length_ge (p : ByteSeq) : p.length + 6 ≤ (encodeFrame p).length := by
  have h := stuff_length_ge (p ++ trailer p)
  rw [List.length_append, trailer_length, trailerLen] at h
  rw [encodeFrame_length]
  omega

/-- Without a zero in payload and trailer, a frame is the longest for its payload's length (43_frame_codec.md R127). -/
theorem encodeFrame_length_of_no_zero {p : ByteSeq} (hzero : delimiter ∉ p ++ trailer p) :
    (encodeFrame p).length = encLenMax p.length := by
  have hlen : (p ++ trailer p).length = p.length + 4 := by simp [trailerLen]
  rw [encodeFrame_length, stuff_length_of_no_zero _ (by omega) hzero, hlen, encLenMax]
  omega

theorem decodeFrame_length_of_ok {f : ByteSeq} (h : (decodeFrame f).2 = .ok) :
    (decodeFrame f).1.length + 5 ≤ f.length := by
  obtain ⟨payload, t, hr, ht, -, e⟩ := decodeFrame_of_ok h
  have hlt := unstuff_stripDelim_length_lt hr
  rw [e]
  rwa [List.length_append, ht] at hlt

theorem decodeFrame_length_of_tier1 {f : ByteSeq} (h : (decodeFrame f).2 = .tier1) :
    (decodeFrame f).1.length = f.length := by
  rw [decodeFrame_of_tier1 h, tier1_length]

theorem decodeFrame_length_of_tier2 {f : ByteSeq} (h : (decodeFrame f).2 = .tier2) :
    (decodeFrame f).1.length + 1 ≤ f.length := by
  obtain ⟨r, hr, -, e⟩ := decodeFrame_of_tier2 h
  rw [e, tier2_length]
  exact unstuff_stripDelim_length_lt hr

/-- A computing command reports CAPACITY only when its output does not fit (40_command.md R84). -/
theorem overflow_of_status_capacity {i : Instr} {s t : State} (hi : i.computing = true) (h : exec i s = .next t)
    (ht : t.status = 0x0B) : s.params.outCap < (i.output s.inSeq).length := by
  by_contra hfits
  rw [exec_of_fits hi (Nat.le_of_not_lt hfits)] at h
  cases h
  exact statusDone_ne_capacity _ ht

/-- Settles O36: a frame by what Stuff adds, a decoded result by its tag, and CAPACITY because DECODE's output is no
longer than IN. -/
theorem frameLengths : Obligations.FrameLengths := by
  refine ⟨fun p => ⟨encodeFrame_length_ge p, encodeFrame_length_le p⟩, fun p => encodeFrame_length_of_no_zero,
    fun f => decodeFrame_length_of_ok, fun f => decodeFrame_length_of_tier1, fun f => decodeFrame_length_of_tier2,
    fun s t hin h ht => ?_⟩
  calc s.params.outCap
    _ < (decodeFrame s.inSeq).1.length := overflow_of_status_capacity rfl h ht
    _ ≤ s.inSeq.length := decodeFrame_length_le s.inSeq
    _ ≤ s.params.inCap := hin

end Sys2Proof.Machine

/-! ## The frame round trip -/

namespace Sys2Proof.Machine

/-- Decode gives back the payload of a stuffed payload and trailer, whether or not a terminator was stripped. -/
theorem decodeFrame_of_stuffed {f p : ByteSeq} (h : stripDelim f = stuff (p ++ trailer p)) :
    decodeFrame f = (p, .ok) := by
  rw [decodeFrame_of_trailer (by rw [h, unstuff_stuff]) (trailer_length p), trailer, if_pos (be32Value_be32 _)]

/-- Decode undoes Encode (43_frame_codec.md R129). -/
theorem decodeFrame_encodeFrame (p : ByteSeq) : decodeFrame (encodeFrame p) = (p, .ok) := by
  obtain ⟨-, -, hstrip, -⟩ := frameHasOneZeroAtItsEnd p
  exact decodeFrame_of_stuffed hstrip

theorem decodeFrame_stripDelim_encodeFrame (p : ByteSeq) : decodeFrame (stripDelim (encodeFrame p)) = (p, .ok) := by
  obtain ⟨-, -, hstrip, hbody⟩ := frameHasOneZeroAtItsEnd p
  exact decodeFrame_of_stuffed (hstrip.symm ▸ hbody)

theorem runFrom_cons_of_next {a : HostAction} {s t : State} (h : perform a s = .next t) (as : List HostAction) :
    runFrom s (a :: as) = runFrom t as := by
  rw [runFrom_cons, h]

/-- ENCODE whose frame fits in OUT (43_frame_codec.md R121). -/
theorem exec_encode_of_fits {s : State} (h : (encodeFrame s.inSeq).length ≤ s.params.outCap) :
    exec .encode s =
      .next { s with outSeq := encodeFrame s.inSeq, crcOut := crc32 s.inSeq, status := 0x00 } := by
  rw [exec_of_fits (i := .encode) rfl h, outputTag_of_ne_decode (by decide)]
  rfl

/-- DECODE whose result fits in OUT (43_frame_codec.md R128). -/
theorem exec_decode_of_fits {s : State} {q : ByteSeq} {t : Tag} (hdec : decodeFrame s.inSeq = (q, t))
    (h : q.length ≤ s.params.outCap) :
    exec .decode s = .next { s with outSeq := q, status := statusDone t } := by
  have hout : Instr.decode.output s.inSeq = q := congrArg Prod.fst hdec
  have htag : outputTag .decode s = t := congrArg Prod.snd hdec
  rw [exec_of_fits rfl (by rwa [hout]), hout, htag]
  rfl

/-- The host's ENCODE, when the frame fits in OUT. -/
theorem perform_encode_of_fits {s : State} (h : (encodeFrame s.inSeq).length ≤ s.params.outCap) :
    ∃ t, perform (.writeCmd 0x01) s = .next t ∧ t.outSeq = encodeFrame s.inSeq ∧ t.params = s.params :=
  ⟨_, exec_encode_of_fits (s := s.setCmd 0x01) h, rfl, rfl⟩

/-- The host's XFER, when OUT fits in IN (40_command.md R87). -/
theorem perform_xfer_of_fits {s : State} (h : s.outSeq.length ≤ s.params.inCap) :
    perform .xfer s = .next (s.setIn s.outSeq) :=
  if_pos h

/-- The host's DECODE, when the result fits in OUT. -/
theorem perform_decode_of_fits {s : State} {q : ByteSeq} {t : Tag} (hdec : decodeFrame s.inSeq = (q, t))
    (h : q.length ≤ s.params.outCap) :
    ∃ u, perform (.writeCmd 0x02) s = .next u ∧ u.outSeq = q ∧ u.status = statusDone t :=
  ⟨_, exec_decode_of_fits (s := s.setCmd 0x02) hdec h, rfl, rfl⟩

/-- Settles O37: the frame fits where the host's actions put it, and so does the payload, which is shorter. -/
theorem frameRoundTrip : Obligations.FrameRoundTrip := by
  refine ⟨decodeFrame_encodeFrame, decodeFrame_stripDelim_encodeFrame, fun s hout hin => ?_⟩
  obtain ⟨u, hencode, hframe, hparams⟩ := perform_encode_of_fits hout
  have hxfer := perform_xfer_of_fits (s := u) (by rwa [hframe, hparams])
  have hdec : decodeFrame (u.setIn u.outSeq).inSeq = (s.inSeq, .ok) := by
    rw [State.setIn_inSeq, hframe, decodeFrame_encodeFrame]
  have hpayload : s.inSeq.length ≤ (u.setIn u.outSeq).params.outCap := by
    rw [State.setIn_params, hparams]
    exact (Nat.le_of_add_right_le (encodeFrame_length_ge s.inSeq)).trans hout
  obtain ⟨t, hdecode, hq, hst⟩ := perform_decode_of_fits hdec hpayload
  refine ⟨t.setScript [], ?_, hq, hst⟩
  rw [runFrom_cons_of_next hencode, runFrom_cons_of_next hxfer, runFrom_cons_of_next hdecode, runFrom_nil]

end Sys2Proof.Machine

/-! ## The priority of outcomes -/

namespace Sys2Proof.Machine

/-- A byte from 0x04 up reports BAD_OPCODE; nothing else of the state has a part in it (60_exceptions.md R143). -/
theorem issue_of_reserved {v : Byte} (hv : 0x04 ≤ v.toNat) (s : State) :
    issue v s = .next { s with cmd := v, status := 0x07 } :=
  exec_reserved (decodeOp_reserved hv) (s.setCmd v)

/-- A body long enough for a trailer, whose last four bytes are not the CRC32 of those before them, takes the tier-2
fallback (43_frame_codec.md R122). -/
theorem decodeFrame_of_crc_mismatch {f r : ByteSeq} (h : unstuff (stripDelim f) = some r) (hr : trailerLen ≤ r.length)
    (hcrc : be32Value (r.drop (r.length - trailerLen)) ≠ crc32 (r.take (r.length - trailerLen))) :
    decodeFrame f = (tier2 r, .tier2) := by
  have hcut := List.take_append_drop (r.length - trailerLen) r
  have ht : (r.drop (r.length - trailerLen)).length = trailerLen := by
    rw [List.length_drop, Nat.sub_sub_self hr]
  rw [decodeFrame_of_trailer (h.trans (congrArg some hcut.symm)) ht, if_neg hcrc, hcut]

/-- The fields of the CAPACITY status: no result, and the error code (10_state.md R24). -/
theorem statusFields_capacity : statusResult 0x0B = 3 ∧ statusCmdErr 0x0B = 2 := by decide

/-- Settles O18: a reserved command computes nothing, DECODE's tag comes from the first of its three tests that fails,
and an output that does not fit overrides the tag. -/
theorem outcomePriority : Obligations.OutcomePriority := by
  refine ⟨fun s v hv => issue_of_reserved hv s, fun f r => ⟨fun h => ?_, fun h hr => ?_, fun h hr hcrc => ?_⟩,
    fun s hover => ?_⟩
  · rw [decodeFrame_of_unstuff_none h]
  · rw [decodeFrame_of_short h hr]
  · rw [decodeFrame_of_crc_mismatch h hr hcrc]
  · exact ⟨_, exec_of_overflow (i := .decode) rfl hover, rfl, statusFields_capacity⟩

end Sys2Proof.Machine

/-! ## Bytes after a frame -/

namespace Sys2Proof.Machine

/-- StripDelim takes only the last byte, so no byte of `f` when something follows `f` (42_stuffing.md R107). -/
theorem mem_stripDelim_append {f x : ByteSeq} {b : Byte} (hb : b ∈ f) (hx : x ≠ []) : b ∈ stripDelim (f ++ x) := by
  obtain ⟨y, z, rfl⟩ := (List.eq_nil_or_concat' x).resolve_left hx
  rw [← List.append_assoc, stripDelim_concat]
  have hmem : b ∈ f ++ y := List.mem_append_left y hb
  split
  · exact hmem
  · exact List.mem_append_left [z] hmem

/-- A zero that is still in the body after StripDelim makes it malformed (42_stuffing.md R104). -/
theorem unstuff_eq_none_of_delimiter_mem {b : ByteSeq} (h : delimiter ∈ b) : unstuff b = none :=
  Option.eq_none_iff_forall_ne_some.mpr fun _ hr => delimiter_not_mem_of_unstuff hr h

theorem delimiter_mem_encodeFrame (p : ByteSeq) : delimiter ∈ encodeFrame p := List.mem_concat_self

/-- Settles O38: the frame's terminator stays in the body, whatever follows it. -/
theorem bytesAfterAFrameAreTierOne : Obligations.BytesAfterAFrameAreTierOne := by
  intro p x hx
  have hbody : delimiter ∈ stripDelim (encodeFrame p ++ x) := mem_stripDelim_append (delimiter_mem_encodeFrame p) hx
  rw [decodeFrame_of_unstuff_none (unstuff_eq_none_of_delimiter_mem hbody), tier1_eq_set]

end Sys2Proof.Machine

/-! ## Decode inverts encode -/

namespace Sys2Proof

/-- A command is well-formed exactly when its opcode lies in its row of the table. -/
theorem wellFormed_eq_row_hits (i : Instr) : i.wellFormed = i.row.hits (opcodeOf i) := by
  cases i <;> rfl

/-- Every command stands among those of the ten rows that hold its opcode. -/
theorem mem_rowCommands_opcodeOf (i : Instr) : i ∈ rowCommands (opcodeOf i) := by
  cases i <;> simp [rowCommands, opcodeOf]

/-- The rows are disjoint, so the command of a byte is the only one whose row the byte hits (30_encoding.md R62). -/
theorem eq_of_row_hits {v : Byte} {i j : Instr} (hi : i ∈ rowCommands v) (hj : j ∈ rowCommands v)
    (hhi : i.row.hits v = true) (hhj : j.row.hits v = true) : i = j := by
  obtain ⟨k, hk⟩ := List.length_eq_one_iff.mp (rows_partition_the_bytes v)
  have only {l : Instr} (hl : l ∈ rowCommands v) (hhl : l.row.hits v = true) : l = k :=
    List.mem_singleton.mp (hk ▸ List.mem_filter.mpr ⟨hl, hhl⟩)
  exact (only hi hhi).trans (only hj hhj).symm

/-- The decoder answers the command that a well-formed command's opcode stands for. -/
theorem decodeOp_opcodeOf {i : Instr} (h : i.wellFormed = true) : decodeOp (opcodeOf i) = i := by
  have hmem := mem_rowCommands_opcodeOf (decodeOp (opcodeOf i))
  rw [opcodeOf_decodeOp] at hmem
  exact eq_of_row_hits hmem (mem_rowCommands_opcodeOf i) (decodeOp_row_hits _) (wellFormed_eq_row_hits i ▸ h)

theorem decodeOp_wellFormed (v : Byte) : (decodeOp v).wellFormed = true := by
  rw [wellFormed_eq_row_hits, opcodeOf_decodeOp, decodeOp_row_hits]

/-- Settles O1: the decoder answers the one command whose row the byte hits, and keeps the opcode. -/
theorem decodeInvertsEncode : Obligations.DecodeInvertsEncode := by
  refine ⟨fun i hi => ?_, fun v => ⟨decodeOp_wellFormed v, ?_⟩⟩
  · rw [encode, decode_one, decodeOp_opcodeOf hi]
  · rw [encode, opcodeOf_decodeOp]

end Sys2Proof

/-! ## The invariant -/

namespace Sys2Proof.Machine

theorem legalStatus_statusDone (t : Tag) : legalStatus (statusDone t) = true := by
  cases t <;> simp

/-- A performed command gives a result code, never NONE (10_state.md R24). -/
theorem statusDone_ne_reset (t : Tag) : statusDone t ≠ 0x03 := by
  cases t <;> decide

/-- An error report leaves OUT and CRC_OUT as they were; a performed command gives a STATUS other than 0x03. -/
theorem complete_inv {s : State} (hs : s.Inv) (q : ByteSeq) (t : Tag) (c : Option Word) :
    (complete q t c s).Inv := by
  refine ⟨complete_wf hs.1 q t c, ?_⟩
  obtain ⟨-, e⟩ | ⟨-, e⟩ := complete_cases q t c s
  · simp [e]
  · rw [e]
    exact ⟨by simp [legalStatus_statusDone], fun h => absurd (by simpa using h) (statusDone_ne_reset t)⟩

theorem exec_inv {i : Instr} {s t : State} (hs : s.Inv) (h : exec i s = .next t) : t.Inv := by
  obtain ⟨-, rfl⟩ | ⟨-, rfl⟩ | ⟨-, rfl⟩ := exec_cases h
  · exact hs
  · exact ⟨hs.1, by simp⟩
  · exact complete_inv hs _ _ _

/-- The invariant speaks neither of CMD nor of the host's side of the run, and of IN only through its length. -/
theorem perform_inv {a : HostAction} {s t : State} (hs : s.Inv) (h : perform a s = .next t) : t.Inv := by
  refine ⟨perform_wf hs.1 h, ?_⟩
  obtain ⟨_, _, _, rfl⟩ | ⟨_, _, _, _, rfl⟩ | ⟨v, _, e⟩ | ⟨_, rfl⟩ | ⟨_, _, rfl⟩ | ⟨_, rfl⟩ := perform_cases h
  · exact hs.2
  · exact hs.2
  · exact (exec_inv (s := s.setCmd v) hs e).2
  · exact hs.2
  · exact hs.2
  · simp

/-- Settles O49: a step is idle or performs the host's next action, and every action keeps the invariant. -/
theorem stepKeepsTheInvariant : Obligations.StepKeepsTheInvariant := by
  intro s t hs h
  obtain ⟨-, rfl⟩ | ⟨a, rest, -, e⟩ := step_cases h
  · exact hs
  · exact perform_inv (s := s.setScript rest) hs e

end Sys2Proof.Machine

/-! ## What commands leave unchanged -/

namespace Sys2Proof.Machine

@[simp] theorem State.byteAt_inSeq (s : State) (k : Nat) : s.byteAt .inSeq k = s.inSeq[k]? := rfl
@[simp] theorem State.byteAt_outSeq (s : State) (k : Nat) : s.byteAt .outSeq k = s.outSeq[k]? := rfl

/-- A completion writes nothing but OUT, STATUS and CRC_OUT (40_command.md R84). -/
theorem complete_frame (q : ByteSeq) (t : Tag) (c : Option Word) (s : State) :
    (complete q t c s).cmd = s.cmd ∧ (complete q t c s).inSeq = s.inSeq ∧ (complete q t c s).params = s.params ∧
      (complete q t c s).script = s.script ∧ (complete q t c s).reads = s.reads := by
  obtain ⟨-, e⟩ | ⟨-, e⟩ := complete_cases q t c s <;> simp [e]

/-- No command writes anything but OUT, STATUS and CRC_OUT. -/
theorem exec_frame {i : Instr} {s t : State} (h : exec i s = .next t) :
    t.cmd = s.cmd ∧ t.inSeq = s.inSeq ∧ t.params = s.params ∧ t.script = s.script ∧ t.reads = s.reads := by
  obtain ⟨-, rfl⟩ | ⟨-, rfl⟩ | ⟨-, rfl⟩ := exec_cases h
  · simp
  · simp
  · exact complete_frame _ _ _ s

theorem complete_none_crcOut (q : ByteSeq) (t : Tag) (s : State) : (complete q t none s).crcOut = s.crcOut := by
  obtain ⟨-, e⟩ | ⟨-, e⟩ := complete_cases q t none s <;> simp [e]

/-- Only ENCODE and CRC32 offer a checksum to CRC_OUT (10_state.md R25). -/
theorem exec_crcOut_of_not_writesCrc {i : Instr} {s t : State} (hi : i.writesCrc = false) (h : exec i s = .next t) :
    t.crcOut = s.crcOut := by
  obtain ⟨-, rfl⟩ | ⟨-, rfl⟩ | ⟨-, rfl⟩ := exec_cases h
  · rfl
  · rfl
  · simp [offeredCrc, hi, complete_none_crcOut]

/-- Only the computing commands write OUT (10_state.md R22). -/
theorem exec_outSeq_of_not_computing {i : Instr} {s t : State} (hi : i.computing = false)
    (h : exec i s = .next t) : t.outSeq = s.outSeq := by
  obtain ⟨-, rfl⟩ | ⟨-, rfl⟩ | ⟨hc, -⟩ := exec_cases h
  · rfl
  · rfl
  · simp [hi] at hc

/-- Settles O15: the registers that no command writes, then OUT and CRC_OUT by the command's kind and by whether its
output fits. -/
theorem commandFrame : Obligations.CommandFrame := by
  intro i s t h
  obtain ⟨hcmd, hin, hparams, hscript, hreads⟩ := exec_frame h
  refine ⟨hcmd, hparams, hscript, hreads, fun k => ?_, fun hi => ?_, fun hi => exec_crcOut_of_not_writesCrc hi h,
    fun hi k => ?_, fun hi hover => ?_, fun hi hfits k => ?_⟩
  · rw [State.byteAt_inSeq, State.byteAt_inSeq, hin]
  · subst hi
    cases h
    rfl
  · rw [State.byteAt_outSeq, State.byteAt_outSeq, exec_outSeq_of_not_computing hi h]
  · rw [exec_of_overflow hi hover] at h
    cases h
    exact ⟨rfl, fun _ => rfl⟩
  · rw [exec_of_fits hi hfits] at h
    cases h
    rfl

/-- A completion repeated from the same IN writes the same values to the same registers (20_memory.md R45). -/
theorem complete_complete (q : ByteSeq) (t : Tag) (c : Option Word) (s : State) :
    complete q t c (complete q t c s) = complete q t c s := by
  obtain ⟨hq, e⟩ | ⟨hq, e⟩ := complete_cases q t c s
  · rw [e, complete_of_overflow _ _ (by simpa using hq)]
    rfl
  · rw [e, complete_of_fits _ _ (by simpa using hq)]
    cases c <;> rfl

/-- The checksum offered to CRC_OUT is computed from IN alone. -/
theorem offeredCrc_congr (i : Instr) {s u : State} (h : s.inSeq = u.inSeq) : offeredCrc i s = offeredCrc i u := by
  rw [offeredCrc, offeredCrc, h]

/-- Settles O17: a computing command keeps IN, from which its output, tag and checksum come. -/
theorem repeatedCommandChangesNothing : Obligations.RepeatedCommandChangesNothing := by
  intro i s t h
  obtain ⟨-, hin, -⟩ := exec_frame h
  obtain ⟨-, rfl⟩ | ⟨hi, rfl⟩ | ⟨hi, e⟩ := exec_cases h
  · exact h
  · exact exec_reserved hi _
  · rw [exec_computing hi, hin, outputTag_congr i hin, offeredCrc_congr i hin, e, complete_complete]

/-! ## The fields of STATUS -/

/-- The STATUS values that commands write (10_state.md R24). -/
def writtenStatuses : List Byte := [0x00, 0x01, 0x02, 0x07, 0x0B]

/-- Each written value is `(CMDERR << 2) | RESULT` with the reserved bits zero, and an error goes with RESULT = NONE
(10_state.md R24). -/
theorem writtenStatuses_fields : ∀ st ∈ writtenStatuses, statusReserved st = 0 ∧
    st = ((statusCmdErr st).setWidth 8 <<< 2) ||| (statusResult st).setWidth 8 ∧
    ((statusCmdErr st = 0 ∧ statusResult st ≠ 3) ∨ (statusCmdErr st = 1 ∧ statusResult st = 3) ∨
      (statusCmdErr st = 2 ∧ statusResult st = 3)) := by
  decide

theorem complete_status_mem (q : ByteSeq) (t : Tag) (c : Option Word) (s : State) :
    (complete q t c s).status ∈ writtenStatuses := by
  obtain ⟨-, e⟩ | ⟨-, e⟩ := complete_cases q t c s
  · simp [e, writtenStatuses]
  · cases t <;> simp [e, writtenStatuses]

/-- Every command but NOP writes STATUS. -/
theorem exec_status_mem {i : Instr} {s t : State} (hi : i ≠ .nop) (h : exec i s = .next t) :
    t.status ∈ writtenStatuses := by
  obtain ⟨hnop, -⟩ | ⟨-, rfl⟩ | ⟨-, rfl⟩ := exec_cases h
  · exact absurd hnop hi
  · simp [writtenStatuses]
  · exact complete_status_mem _ _ _ s

/-- Settles O20: commands write one of five values; a host write to STATUS only consumes the action. -/
theorem statusFields : Obligations.StatusFields := by
  refine ⟨fun i s hi => ?_, fun s v rest hscript => step_action hscript, by decide⟩
  obtain ⟨t, h, -⟩ := exec_completes i s
  exact ⟨t, h, writtenStatuses_fields _ (exec_status_mem hi h)⟩

end Sys2Proof.Machine

/-! ## The detection strength of the checksum -/

namespace Sys2Proof.Machine

/-- Bit `n` of the stream `f` as a word, at the register's end where bits enter. -/
def inputBit (f : Nat → Bool) (n : Nat) : Word := (BitVec.ofBool (f n)).setWidth 32

/-- The register after `n` bits of the stream `f`, one bit step a bit: the bit-serial form of the loop of CRC32
(41_checksum.md R90). -/
def crcFeed (f : Nat → Bool) (c : Word) : Nat → Word
  | 0     => c
  | n + 1 => crcBit (crcFeed f c n ^^^ inputBit f n)

/-- The 32 bits of the stream `f` from bit `n` on, bit `n` lowest. -/
def bitWindow (f : Nat → Bool) (n : Nat) : Word := BitVec.ofFnLE fun j : Fin 32 => f (n + j)

@[simp] theorem getElem_bitWindow (f : Nat → Bool) (n : Nat) {i : Nat} (hi : i < 32) :
    (bitWindow f n)[i] = f (n + i) :=
  BitVec.getElem_ofFnLE _ i hi

theorem bitWindow_eq_zero_iff (f : Nat → Bool) (n : Nat) : bitWindow f n = 0#32 ↔ ∀ i < 32, f (n + i) = false := by
  simp [BitVec.eq_of_getElem_eq_iff]

/-- The window at bit `n` holds that bit and then the window at the next one. -/
theorem bitWindow_eq_xor (f : Nat → Bool) (n : Nat) :
    bitWindow f n = inputBit f n ^^^ bitWindow f (n + 1) <<< 1 := by
  apply BitVec.eq_of_getElem_eq
  intro i hi
  cases i with
  | zero => simp [inputBit]
  | succ i => simp [inputBit, Nat.add_assoc, Nat.add_comm 1]

/-- A bit step undoes a shift that lost no bit. -/
theorem crcBit_shiftLeft_one {x : Word} (h : x[31] = false) : crcBit (x <<< 1) = x := by
  have hlow : (x <<< 1).getLsbD 0 = false := by simp
  rw [crcBit, hlow]
  apply BitVec.eq_of_getElem_eq
  intro i hi
  by_cases hlast : i = 31
  · simp [hlast, h]
  · simp [show 1 + i < 32 by omega]

/-- A bit step loses nothing: bit 31 of the generator tells whether the bit shifted out was 1. -/
theorem crcBit_eq_zero {x : Word} (h : crcBit x = 0#32) : x = 0#32 := by
  have hlow : x.getLsbD 0 = false := by
    by_contra hone
    rw [crcBit, if_pos (by simpa using hone)] at h
    have htop : (x >>> 1 ^^^ crcPoly)[31] = true := by simp [crcPoly]
    simp [h] at htop
  have hshift : x >>> 1 = 0#32 := by
    rw [crcBit, hlow] at h
    exact h
  apply BitVec.eq_of_getLsbD_eq
  intro i _
  cases i with
  | zero => simpa using hlow
  | succ i => simpa [Nat.add_comm] using congrArg (BitVec.getLsbD · i) hshift

theorem crcBits_eq_zero (k : Nat) : ∀ {x : Word}, crcBits k x = 0#32 → x = 0#32 := by
  induction k with
  | zero => exact id
  | succ k ih => exact fun h => crcBit_eq_zero (ih h)

/-- The register with the bits still to come in it already: a bit step takes the next one, if no bit enters the
window. -/
theorem crcFeed_xor_bitWindow_succ {f : Nat → Bool} {n : Nat} (h : f (n + 32) = false) (c : Word) :
    crcFeed f c (n + 1) ^^^ bitWindow f (n + 1) = crcBit (crcFeed f c n ^^^ bitWindow f n) := by
  have htop : (bitWindow f (n + 1))[31] = false := by simpa [Nat.add_assoc] using h
  rw [bitWindow_eq_xor f n, ← BitVec.xor_assoc, crcBit_xor, crcBit_shiftLeft_one htop, crcFeed]

theorem crcFeed_xor_bitWindow (m : Nat) : ∀ {f : Nat → Bool} {n : Nat}, (∀ i, n + 32 ≤ i → f i = false) →
    ∀ c : Word, crcFeed f c (n + m) ^^^ bitWindow f (n + m) = crcBits m (crcFeed f c n ^^^ bitWindow f n) := by
  induction m with
  | zero => exact fun _ _ => rfl
  | succ m ih =>
    intro f n h c
    rw [crcBits, ← crcFeed_xor_bitWindow_succ (h _ le_rfl), ← ih (fun i hi => h i (by omega)), Nat.add_right_comm]
    rfl

/-- The register follows the bits that it is fed, and those alone. -/
theorem crcFeed_congr {f g : Nat → Bool} {n : Nat} (h : ∀ i < n, f i = g i) (c : Word) :
    crcFeed f c n = crcFeed g c n := by
  induction n with
  | zero => rfl
  | succ n ih => rw [crcFeed, crcFeed, ih fun i hi => h i (by omega), inputBit, inputBit, h n (Nat.lt_succ_self n)]

theorem crcFeed_add (f : Nat → Bool) (c : Word) (m n : Nat) :
    crcFeed f c (m + n) = crcFeed (fun i => f (m + i)) (crcFeed f c m) n := by
  induction n with
  | zero => rfl
  | succ n ih =>
    rw [← Nat.add_assoc, crcFeed, crcFeed, ih]
    rfl

theorem inputBit_xor (f g : Nat → Bool) (n : Nat) :
    inputBit (fun i => f i ^^ g i) n = inputBit f n ^^^ inputBit g n := by
  have hbit : ∀ p q : Bool, (BitVec.ofBool (p ^^ q)).setWidth 32 =
      (BitVec.ofBool p).setWidth 32 ^^^ (BitVec.ofBool q).setWidth 32 := by decide
  exact hbit (f n) (g n)

/-- The register is linear in its first value and the bits fed to it together. -/
theorem crcFeed_xor (f g : Nat → Bool) (c e : Word) (n : Nat) :
    crcFeed f c n ^^^ crcFeed g e n = crcFeed (fun i => f i ^^ g i) (c ^^^ e) n := by
  induction n with
  | zero => rfl
  | succ n ih =>
    rw [crcFeed, crcFeed, crcFeed, ← ih, inputBit_xor, ← crcBit_xor]
    ac_rfl

theorem crcFeed_zero {f : Nat → Bool} {n : Nat} (h : ∀ i < n, f i = false) : crcFeed f 0#32 n = 0#32 := by
  induction n with
  | zero => rfl
  | succ n ih =>
    rw [crcFeed, ih fun i hi => h i (by omega), inputBit, h n (Nat.lt_succ_self n)]
    rfl

/-- A byte is fed bit 0 first (20_memory.md R42). -/
theorem crcFeed_byte (c : Word) (b : Byte) : crcFeed b.getLsbD c 8 = crcByte c b := by
  have hwindow : bitWindow b.getLsbD 0 = b.setWidth 32 := by
    apply BitVec.eq_of_getElem_eq
    intro i hi
    simp
  have hpast (i : Nat) (hi : 8 ≤ i) : b.getLsbD i = false := BitVec.getLsbD_of_ge b i hi
  have hempty : bitWindow b.getLsbD 8 = 0#32 := (bitWindow_eq_zero_iff _ _).mpr fun i _ => hpast _ (by omega)
  have h := crcFeed_xor_bitWindow 8 (n := 0) (fun i hi => hpast i (by omega)) c
  rwa [Nat.zero_add, hempty, BitVec.xor_zero, hwindow] at h

theorem bitAt_cons_low (b : Byte) (d : ByteSeq) {n : Nat} (hn : n < 8) : bitAt (b :: d) n = b.getLsbD n := by
  rw [bitAt, Nat.div_eq_of_lt hn, Nat.mod_eq_of_lt hn]
  rfl

theorem bitAt_cons_add (b : Byte) (d : ByteSeq) (n : Nat) : bitAt (b :: d) (8 + n) = bitAt d n := by
  rw [bitAt, Nat.add_div_left n (by decide), Nat.add_mod_left]
  rfl

/-- There are no bits past the end of a sequence. -/
theorem bitAt_of_length_le {d : ByteSeq} {n : Nat} (h : 8 * d.length ≤ n) : bitAt d n = false := by
  have : d.length ≤ n / 8 := by omega
  simp [bitAt, List.getD_eq_getElem?_getD, List.getElem?_eq_none this]

/-- The loop of CRC32 feeds the sequence's bits to the register. -/
theorem foldl_crcByte (d : ByteSeq) : ∀ c : Word, d.foldl crcByte c = crcFeed (bitAt d) c (8 * d.length) := by
  induction d with
  | nil => exact fun _ => rfl
  | cons b d ih =>
    intro c
    rw [List.foldl_cons, ih, List.length_cons, Nat.mul_succ, Nat.add_comm, crcFeed_add,
      crcFeed_congr (fun i hi => bitAt_cons_low b d hi), crcFeed_byte, funext (bitAt_cons_add b d)]

/-- A sequence is its length and its bits. -/
theorem eq_of_bitAt_eq {d e : ByteSeq} (hlen : d.length = e.length) (h : ∀ n, bitAt d n = bitAt e n) : d = e := by
  refine List.ext_getElem hlen fun i hd he => BitVec.eq_of_getLsbD_eq fun j hj => ?_
  have hbit := h (8 * i + j)
  rwa [bitAt, bitAt, show (8 * i + j) / 8 = i by omega, show (8 * i + j) % 8 = j by omega,
    List.getD_eq_getElem _ _ hd, List.getD_eq_getElem _ _ he] at hbit

/-- The bits in which two sequences differ. -/
def bitDiff (d e : ByteSeq) (n : Nat) : Bool := bitAt d n ^^ bitAt e n

/-- Two sequences of one length and one CRC32: the bits in which they differ leave a zero register zero. -/
theorem crcFeed_bitDiff_of_crc32_eq {d e : ByteSeq} (hlen : d.length = e.length) (h : crc32 d = crc32 e) :
    crcFeed (bitDiff d e) 0#32 (8 * d.length) = 0#32 := by
  have hreg : crcFeed (bitAt d) crcInit (8 * d.length) = crcFeed (bitAt e) crcInit (8 * d.length) := by
    rw [crc32, crc32, BitVec.xor_left_inj, foldl_crcByte, foldl_crcByte, ← hlen] at h
    exact h
  have hlin := crcFeed_xor (bitAt d) (bitAt e) crcInit crcInit (8 * d.length)
  rw [hreg, BitVec.xor_self, BitVec.xor_self] at hlin
  exact hlin.symm

/-- A burst of at most 32 bits never leaves a zero register zero: the register and the burst together are stepped
through a bijection. -/
theorem bitWindow_eq_zero_of_crcFeed_eq_zero {f : Nat → Bool} {k n : Nat} (hkn : k ≤ n)
    (hout : ∀ i, i < k ∨ k + 32 ≤ i → f i = false) (hend : ∀ i, n ≤ i → f i = false)
    (h : crcFeed f 0#32 n = 0#32) : bitWindow f k = 0#32 := by
  obtain ⟨m, rfl⟩ := Nat.exists_eq_add_of_le hkn
  have hstart : crcFeed f 0#32 k = 0#32 := crcFeed_zero fun i hi => hout i (.inl hi)
  have hempty : bitWindow f (k + m) = 0#32 := (bitWindow_eq_zero_iff _ _).mpr fun i _ => hend _ (by omega)
  have hstep := crcFeed_xor_bitWindow m (fun i hi => hout i (.inr hi)) 0#32
  rw [h, hempty, BitVec.xor_self, hstart, BitVec.zero_xor] at hstep
  exact crcBits_eq_zero m hstep.symm

/-- Settles O24: the bits that differ lie in one window of the stream, and that window would be zero. -/
theorem crc32SeesEveryBurst : Obligations.Crc32SeesEveryBurst := by
  intro d e k hlen hne hout hcrc
  have hdiff (i : Nat) (hi : i < k ∨ k + 32 ≤ i) : bitDiff d e i = false := by
    rw [bitDiff, hout i hi, Bool.xor_self]
  have hend (i : Nat) (hi : 8 * d.length ≤ i) : bitDiff d e i = false := by
    rw [bitDiff, bitAt_of_length_le hi, bitAt_of_length_le (hlen ▸ hi), Bool.xor_self]
  have hburst (i : Nat) (hi : i < 32) : bitDiff d e (k + i) = false := by
    by_cases hk : k ≤ 8 * d.length
    · exact (bitWindow_eq_zero_iff _ _).mp (bitWindow_eq_zero_of_crcFeed_eq_zero hk hdiff hend
        (crcFeed_bitDiff_of_crc32_eq hlen hcrc)) i hi
    · exact hend _ (by omega)
  refine hne (eq_of_bitAt_eq hlen fun n => ?_)
  by_cases hn : n < k ∨ k + 32 ≤ n
  · exact hout n hn
  · have h := hburst (n - k) (by omega)
    rwa [Nat.add_sub_of_le (by omega), bitDiff, bne_eq_false_iff_eq] at h

/-- Sequences that differ in the byte after `p` alone agree in every bit outside that byte. -/
theorem bitAt_append_cons_of_ne (p q : ByteSeq) (a b : Byte) {n : Nat} (hn : n / 8 ≠ p.length) :
    bitAt (p ++ a :: q) n = bitAt (p ++ b :: q) n := by
  have hset : p ++ b :: q = (p ++ a :: q).set p.length b := by simp
  rw [bitAt, bitAt, List.getD_eq_getElem?_getD, List.getD_eq_getElem?_getD, hset, List.getElem?_set_ne hn.symm]

/-- Settles O23: a byte is a burst of 8 bits. -/
theorem crc32SeesEverySingleByteChange : Obligations.Crc32SeesEverySingleByteChange := by
  intro p q a b hab
  refine crc32SeesEveryBurst _ _ (8 * p.length) (by simp) (by simpa using hab) fun n hn => ?_
  exact bitAt_append_cons_of_ne p q a b (by omega)

end Sys2Proof.Machine

/-! ## The host's actions -/

namespace Sys2Proof.Machine

@[simp] theorem State.space_setScript (s : State) (as : List HostAction) (m : Space) :
    (s.setScript as).space m = s.space m := by
  cases m <;> rfl

@[simp] theorem State.byteAt_setScript (s : State) (as : List HostAction) (m : Space) (i : Nat) :
    (s.setScript as).byteAt m i = s.byteAt m i := by
  cases m <;> rfl

theorem hostReadByte_of_some {s : State} {m : Space} {i : Nat} {v : Byte} (h : s.byteAt m i = some v) :
    hostReadByte m i s = .next (s.addRead (.byteAt m i v)) := by
  rw [hostReadByte, h]

theorem hostReadByte_of_none {s : State} {m : Space} {i : Nat} (h : s.byteAt m i = none) :
    hostReadByte m i s = .refused (.readPastEnd m i (s.space m).length) := by
  rw [hostReadByte, h]

/-- Settles O40: the step performs the action on the state without it; LOAD, POKE and XFER test their bound, the
indexed read whether there is a byte. -/
theorem hostActionTable : Obligations.HostActionTable := by
  intro s a rest hscript
  rw [step_action hscript]
  refine ⟨?load, ?loadTooLong, ?poke, ?pokePastEnd, ?writeCmd, ?writeStatus, ?writeCrcOut, ?readCmd, ?readStatus,
    ?readCrcOut, ?readIn, ?readOut, ?readByte, ?readPastEnd, ?xfer, ?xferTooLong, ?reset⟩
  case load =>
    rintro bs rfl hfits
    exact if_pos hfits
  case loadTooLong =>
    rintro bs rfl hlong
    exact if_neg (Nat.not_le.mpr hlong)
  case poke =>
    rintro i v rfl hi
    exact if_pos hi
  case pokePastEnd =>
    rintro i v rfl hi
    exact if_neg (Nat.not_lt.mpr hi)
  case readByte =>
    rintro m i v rfl hv
    exact hostReadByte_of_some (by rwa [State.byteAt_setScript])
  case readPastEnd =>
    rintro m i rfl hnone
    rw [perform, hostReadByte_of_none (by rwa [State.byteAt_setScript]), State.space_setScript]
  case xfer =>
    rintro rfl hfits
    exact if_pos hfits
  case xferTooLong =>
    rintro rfl hlong
    exact if_neg (Nat.not_le.mpr hlong)
  case writeCmd | writeStatus | writeCrcOut =>
    rintro v rfl
    rfl
  case readCmd | readStatus | readCrcOut | readIn | readOut | reset =>
    rintro rfl
    rfl

/-- The action `a` is one that the host's table forbids at `s` (40_command.md R87; 10_state.md R31). -/
def HostAction.Forbidden (s : State) : HostAction → Prop
  | .load bs      => s.params.inCap < bs.length
  | .poke i _     => s.inSeq.length ≤ i
  | .readByte m i => (s.space m).length ≤ i
  | .xfer         => s.params.inCap < s.outSeq.length
  | _             => False

theorem nextActionRefused_iff_forbidden {s : State} {a : HostAction} {rest : List HostAction}
    (h : s.script = a :: rest) : s.nextActionRefused ↔ a.Forbidden s := by
  cases a <;> simp [State.nextActionRefused, HostAction.Forbidden, h]

theorem forbidden_setScript (a : HostAction) (s : State) (as : List HostAction) :
    a.Forbidden (s.setScript as) ↔ a.Forbidden s := by
  cases a <;> simp [HostAction.Forbidden]

/-- An action is refused if it is forbidden, and has a next state if it is not. -/
theorem perform_refused_or_next (a : HostAction) (s : State) :
    (a.Forbidden s ∧ ∃ r, perform a s = .refused r) ∨ (¬ a.Forbidden s ∧ ∃ t, perform a s = .next t) := by
  cases a with
  | load bs =>
    obtain ⟨h, e⟩ | ⟨h, e⟩ := hostLoad_cases bs s
    · exact .inr ⟨Nat.not_lt.mpr h, _, e⟩
    · exact .inl ⟨h, _, e⟩
  | poke i v =>
    obtain ⟨h, e⟩ | ⟨h, e⟩ := hostPoke_cases i v s
    · exact .inr ⟨Nat.not_le.mpr h, _, e⟩
    · exact .inl ⟨h, _, e⟩
  | readByte m i =>
    obtain ⟨v, h, e⟩ | ⟨h, e⟩ := hostReadByte_cases m i s
    · exact .inr ⟨fun hpast => by simp [(s.byteAt_eq_none_iff m i).mpr hpast] at h, _, e⟩
    · exact .inl ⟨h, _, e⟩
  | xfer =>
    obtain ⟨h, e⟩ | ⟨h, e⟩ := hostLoad_cases s.outSeq s
    · exact .inr ⟨Nat.not_lt.mpr h, _, e⟩
    · exact .inl ⟨h, _, e⟩
  | writeCmd v =>
    obtain ⟨t, h, -⟩ := exec_completes (decodeOp v) (s.setCmd v)
    exact .inr ⟨id, t, h⟩
  | writeStatus | writeCrcOut | read | reset => exact .inr ⟨id, _, rfl⟩

/-- A step is refused if the next action is forbidden, and has a next state in every other case. -/
theorem step_refused_or_next (s : State) :
    (s.nextActionRefused ∧ ∃ r, step s = .refused r) ∨ (¬ s.nextActionRefused ∧ ∃ t, step s = .next t) := by
  cases h : s.script with
  | nil => exact .inr ⟨by simp [State.nextActionRefused, h], s, step_idle h⟩
  | cons a rest =>
    rw [step_action h, nextActionRefused_iff_forbidden h, ← forbidden_setScript a s rest]
    exact perform_refused_or_next a (s.setScript rest)

/-- Settles O41: a step is refused or has a next state, never both, and the first exactly on a forbidden action. -/
theorem onlyForbiddenActionsHaveNoStep : Obligations.OnlyForbiddenActionsHaveNoStep := by
  intro s
  obtain ⟨h, r, e⟩ | ⟨h, t, e⟩ := step_refused_or_next s <;> simp [h, e]

/-- Settles O42: the step without a pending action. -/
theorem idleBlockHoldsItsState : Obligations.IdleBlockHoldsItsState := fun _ => step_idle

/-- No action changes the capacities or the actions after it, and it only adds to the values read. -/
theorem perform_frame {a : HostAction} {s t : State} (h : perform a s = .next t) :
    t.script = s.script ∧ t.params = s.params ∧ ∃ new, t.reads = s.reads ++ new := by
  obtain ⟨_, _, _, rfl⟩ | ⟨_, _, _, _, rfl⟩ | ⟨v, _, e⟩ | ⟨_, rfl⟩ | ⟨x, _, rfl⟩ | ⟨_, rfl⟩ := perform_cases h
  case inr.inr.inl =>
    obtain ⟨-, -, hparams, hscript, hreads⟩ := exec_frame e
    exact ⟨hscript, hparams, [], by simp [hreads]⟩
  case inr.inr.inr.inr.inl => exact ⟨rfl, rfl, [x], rfl⟩
  all_goals exact ⟨rfl, rfl, [], by simp⟩

/-- Settles O43: an idle step changes nothing, and any other performs the oldest action. -/
theorem stepTakesOneAction : Obligations.StepTakesOneAction := by
  intro s t h
  obtain ⟨hscript, rfl⟩ | ⟨a, rest, hscript, e⟩ := step_cases h
  · exact ⟨by simp [hscript], rfl, [], by simp⟩
  · rw [hscript]
    exact perform_frame e

end Sys2Proof.Machine

/-! ## Runs and their observations -/

namespace Sys2Proof.Machine

/-- Settles O44: by induction on the first script. -/
theorem scriptsRunInOrder : Obligations.ScriptsRunInOrder := by
  intro s as bs
  induction as generalizing s with
  | nil => rfl
  | cons a as ih =>
    rw [List.cons_append, runFrom_cons, runFrom_cons]
    cases perform a s with
    | next t => exact ih t
    | fault f => cases f
    | refused r => rfl

theorem runFrom_cons_of_refused {a : HostAction} {s : State} {r : Refusal} (h : perform a s = .refused r)
    (as : List HostAction) : runFrom s (a :: as) = .refused r := by
  rw [runFrom_cons, h]

/-- What a run that ends adds to the values read is the same whatever was read before: one value for each READ. -/
theorem exists_scriptReads {as : List HostAction} : ∀ {s t : State}, runFrom s as = .next t →
    ∃ new, new.length = (as.filter (·.isRead)).length ∧
      ∀ vs, runFrom (s.setReads vs) as = .next (t.setReads (vs ++ new)) := by
  induction as with
  | nil =>
    intro s t h
    cases h
    exact ⟨[], rfl, fun vs => by rw [List.append_nil]; rfl⟩
  | cons a as ih =>
    intro s t h
    obtain ⟨-, r, e⟩ | ⟨-, u, e⟩ := perform_refused_or_next a s
    · rw [runFrom_cons_of_refused e] at h
      cases h
    · rw [runFrom_cons_of_next e] at h
      obtain ⟨new, hlen, hrun⟩ := ih h
      refine ⟨valuesRead a s ++ new, ?_, fun vs => ?_⟩
      · rw [List.length_append, valuesRead_length e, hlen, List.filter_cons]
        split
        · exact Nat.add_comm 1 _
        · exact Nat.zero_add _
      · have hstep : perform a (s.setReads vs) = .next (u.setReads (vs ++ valuesRead a s)) := by
          rw [perform_setReads, e]
          rfl
        rw [runFrom_cons_of_next hstep, hrun, List.append_assoc]

/-- A stuck run is stuck at the same action whatever was read before it. -/
theorem runFrom_setReads_of_refused {as : List HostAction} {r : Refusal} : ∀ {s : State},
    runFrom s as = .refused r → ∀ vs, runFrom (s.setReads vs) as = .refused r := by
  induction as with
  | nil =>
    intro s h
    cases h
  | cons a as ih =>
    intro s h vs
    have hset := perform_setReads a s vs
    obtain ⟨-, q, e⟩ | ⟨-, u, e⟩ := perform_refused_or_next a s <;> rw [e] at hset
    · rw [runFrom_cons_of_refused e] at h
      rw [runFrom_cons_of_refused hset, ← h]
    · rw [runFrom_cons_of_next e] at h
      rw [runFrom_cons_of_next hset]
      exact ih h _

/-- Settles O51: the run as it is reads the script's values after the earlier ones, the observed run reads them
alone. -/
theorem observationHoldsTheScriptsReads : Obligations.ObservationHoldsTheScriptsReads := by
  refine ⟨fun s t as h => ?_, fun s as r h => ?_⟩
  · obtain ⟨new, hlen, hrun⟩ := exists_scriptReads h
    have hself := hrun s.reads
    rw [State.setReads_reads_self, h, Host.Outcome.next.injEq] at hself
    refine ⟨new, congrArg State.reads hself, hlen, ?_⟩
    rw [observeRun, hrun]
    rfl
  · rw [observeRun, runFrom_setReads_of_refused h]

end Sys2Proof.Machine

/-! ## Reset and systems -/

namespace Sys2Proof.Machine

/-- Settles O46: the action and the values, both by definition of reset. -/
theorem resetValues : Obligations.ResetValues :=
  ⟨fun _ _ hscript => step_action hscript, rfl, rfl, rfl, rfl, rfl⟩

theorem resetWith_inv (p : Params) : (State.resetWith p).Inv := by
  simp [State.Inv, Memory.wf]

/-- Settles O48: after reset both buffers are empty, and STATUS 0x03 is legal. -/
theorem resetMeetsTheInvariant : Obligations.ResetMeetsTheInvariant :=
  ⟨resetWith_inv Params.ofVectors, resetWith_inv⟩

/-- The next state of the state at position `k` takes that position. -/
theorem stepAt_of_next {sys : System} {k : Nat} {s t : State} (hs : sys[k]? = some s) (h : step s = .next t) :
    sys.stepAt k = .next (sys.set k t) := by
  rw [System.stepAt, hs]
  simp only [h]

/-- A system that has stepped is as before or has one place set. -/
theorem stepAt_cases {sys sys' : System} {k : Nat} (h : sys.stepAt k = .next sys') :
    sys' = sys ∨ ∃ t, sys' = sys.set k t := by
  unfold System.stepAt at h
  split at h
  · cases h
    exact .inl rfl
  · split at h <;> cases h
    exact .inr ⟨_, rfl⟩

/-- Settles O50: a step sets at most the place `k`. -/
theorem instancesAreIndependent : Obligations.InstancesAreIndependent := by
  refine fun k sys => ⟨fun sys' h => ?_, fun s t hs h => ?_⟩
  · obtain rfl | ⟨t, rfl⟩ := stepAt_cases h
    · exact ⟨rfl, fun _ _ => rfl⟩
    · exact ⟨List.length_set, fun j hj => List.getElem?_set_ne hj.symm⟩
  · obtain ⟨hk, -⟩ := List.getElem?_eq_some_iff.mp hs
    exact ⟨_, stepAt_of_next hs h, List.getElem?_set_self hk⟩

end Sys2Proof.Machine

/-! ## Command words in use -/

namespace Sys2Proof

/-- Settles O3: the six words by evaluation. -/
theorem tableWordsDecode : Obligations.TableWordsDecode := by
  unfold Obligations.TableWordsDecode
  decide

/-- Settles O4: the three forms of a list that the decoder tells apart. -/
theorem onlyOneByteIsACommandWord : Obligations.OnlyOneByteIsACommandWord := by
  intro bs
  match bs with
  | [] => simp [decode]
  | [v] => simp
  | _ :: _ :: _ => simp [decode]

/-- An 8-bit table word is one byte. -/
theorem decodeTableWord_byte (w : Nat) : decodeTableWord 8 w = some (decodeOp (BitVec.ofNat 8 w)) := rfl

end Sys2Proof

namespace Sys2Proof.Machine

/-- Settles O6: the word stands as a write to CMD before the other actions. -/
theorem fetchWordRunsNext : Obligations.FetchWordRunsNext := by
  intro s w i _ hdecode
  rw [decodeTableWord_byte, Option.some.injEq] at hdecode
  rw [← hdecode]
  exact step_writeCmd (s := s.withFetchWord 8 w) rfl

/-! ## The results of ENCODE and DECODE -/

/-- Settles O11: the frame fits or it does not; the values by evaluation. -/
theorem encodeCommandResult : Obligations.EncodeCommandResult :=
  ⟨fun _ => exec_encode_of_fits, fun _ => exec_of_overflow (i := .encode) rfl, by decide +kernel⟩

/-- DECODE whose result does not fit in OUT (43_frame_codec.md R128). -/
theorem exec_decode_of_overflow {s : State} {q : ByteSeq} {t : Tag} (hdec : decodeFrame s.inSeq = (q, t))
    (h : s.params.outCap < q.length) : exec .decode s = .next { s with status := 0x0B } :=
  exec_of_overflow rfl (by rwa [Instr.output, hdec])

/-- Settles O12: the result fits or it does not, with the STATUS of its tag; the values by evaluation. -/
theorem decodeCommandResult : Obligations.DecodeCommandResult := by
  refine ⟨fun s q t hdec hfits => ?_, fun s q t => exec_decode_of_overflow, by decide +kernel⟩
  rw [exec_decode_of_fits hdec hfits]
  cases t <;> rfl

/-- Settles O39: a payload whose byte 1 is the tier-1 sentinel, and the same bytes as a malformed input. -/
theorem inBandSentinelIsAmbiguous : Obligations.InBandSentinelIsAmbiguous := by
  have hframe := decodeFrame_encodeFrame [0x05, 0x02]
  have hmalformed : decodeFrame [0x05, 0x02] = ([0x05, 0x02], .tier1) := by decide
  exact ⟨encodeFrame [0x05, 0x02], [0x05, 0x02], by rw [hframe, hmalformed], by rw [hframe], by rw [hmalformed]⟩

/-! ## The length of an unstuffed result -/

/-- Settles O29: by the lemma on the loop of Unstuff, in which each block pays its code byte for its implied zero and
the last block has none. -/
theorem unstuffShortens : Obligations.UnstuffShortens := fun _ _ => unstuff_length_lt

/-! ## Commands after reset -/

/-- The frame of an empty payload, and the checksum in it (43_frame_codec.md R121; 41_checksum.md R94). -/
theorem encodeFrame_nil : encodeFrame [] = [0x01, 0x01, 0x01, 0x01, 0x01, 0x00] := by decide

theorem crc32_nil : crc32 [] = 0#32 := by decide

theorem be32_zero : be32 0#32 = [0#8, 0#8, 0#8, 0#8] := by decide

/-- Settles O47: the three commands on an empty IN. -/
theorem commandsAfterReset : Obligations.CommandsAfterReset := by
  intro p
  refine ⟨fun hcap => ?_, ?_, fun hcap => ?_⟩
  · rw [fetchWordRunsNext _ 0x01 .encode (by decide) rfl,
      exec_encode_of_fits (by simpa [encodeFrame_nil] using hcap)]
    simp [encodeFrame_nil, crc32_nil]
  · rw [fetchWordRunsNext _ 0x02 .decode (by decide) rfl, exec_decode_of_fits (q := []) (t := .tier1) rfl (by simp)]
    rfl
  · obtain ⟨hfits, -⟩ := crc32CommandResult
    rw [fetchWordRunsNext _ 0x03 .crc32 (by decide) rfl, hfits _ hcap]
    simp [crc32_nil, be32_zero]

/-! ## Script lines -/

/-- Settles O45: the eight lines by evaluation. -/
theorem scriptLinesNameActions : Obligations.ScriptLinesNameActions := by
  unfold Obligations.ScriptLinesNameActions
  decide

end Sys2Proof.Machine
